-- ==== Sys2Proof/Word.lean ====
section
/-! DEFINITION. The words of the block: bytes (00_scope.md R11) and 32-bit registers and command words (R10). -/

namespace Sys2Proof

/-- A byte: 8 bits, bit 7 the most significant (R11). -/
abbrev Byte := BitVec 8

/-- A register value or a command word: 32 bits, bit 0 the least significant (R10, R11). -/
abbrev Word := BitVec 32

end Sys2Proof
end

