-- ==== Sys2Proof/Syntax.lean ====
section
/-! DEFINITION. The eleven commands (30_encoding.md R74), one constructor per row of spec/opcode_table.json. An operand
is the field of the command word, an unsigned number of exactly that many bits (R71, R72). -/

namespace Sys2Proof

inductive Instr where
  /-- NOP (40_control.md R100). -/
  | nop
  /-- SRESET (R101). -/
  | sreset
  /-- JOB_START (R102). -/
  | jobStart
  /-- FEED b: the byte to feed (41_extractor.md R110). -/
  | feed (b : Byte)
  /-- FEED_END (R111). -/
  | feedEnd
  /-- BUFRD c, k: column index and byte index (R112). -/
  | bufrd (c : BitVec 20) (k : BitVec 4)
  /-- LOADCOL c: column index (42_encoder.md R150). -/
  | loadcol (c : BitVec 20)
  /-- SETCOL k, v: byte index and byte (R151). -/
  | setcol (k : BitVec 4) (v : Byte)
  /-- ENCODE (R152). -/
  | encode
  /-- OUTRD i: OUT index (R153). -/
  | outrd (i : BitVec 6)
  /-- COLRD k: byte index (R154). -/
  | colrd (k : BitVec 4)
deriving DecidableEq, Repr

end Sys2Proof
end

