-- ==== Sys2Proof/Decode.lean ====
section
/-! DEFINITION. Decoding a command word (30_encoding.md R70 to R77), total on every 32-bit word, and the encoder, written
from the same tables. -/

namespace Sys2Proof

/-- The mnemonics of R74, to name the row of a word whose reserved bits are not zero. -/
inductive Mnemonic where
  | nop | sreset | jobStart | feed | feedEnd | bufrd | loadcol | setcol | encode | outrd | colrd
deriving DecidableEq, Repr

/-- R77: exactly one of the three results. -/
inductive Decoded where
  /-- An opcode of 0x0B to 0xFF (R75). -/
  | illegal
  /-- A legal opcode with a reserved operand bit set (R76). -/
  | reserved (m : Mnemonic)
  /-- A command with its fields. -/
  | cmd (i : Instr)
deriving DecidableEq, Repr

/-- w[31:24], the opcode (R70). -/
def opcodeField (w : Word) : Byte := w.extractLsb' 24 8

/-- w[23:20], the field k (R71). -/
def fieldK (w : Word) : BitVec 4 := w.extractLsb' 20 4

/-- w[19:0], the field c (R71). -/
def fieldC (w : Word) : BitVec 20 := w.extractLsb' 0 20

/-- w[7:0], the fields b and v (R71). -/
def fieldB (w : Word) : Byte := w.extractLsb' 0 8

/-- w[5:0], the field i (R71). -/
def fieldI (w : Word) : BitVec 6 := w.extractLsb' 0 6

/-- The opcode map of R74: the row of an opcode, none for 0x0B to 0xFF (R75). -/
def mnemonicOf (op : Byte) : Option Mnemonic :=
  match op.toNat with
  | 0x00 => some .nop
  | 0x01 => some .sreset
  | 0x02 => some .jobStart
  | 0x03 => some .feed
  | 0x04 => some .feedEnd
  | 0x05 => some .bufrd
  | 0x06 => some .loadcol
  | 0x07 => some .setcol
  | 0x08 => some .encode
  | 0x09 => some .outrd
  | 0x0A => some .colrd
  | _ => none

/-- The "match" column of R74. -/
def matchOf : Mnemonic → Word
  | .nop => 0x00000000#32
  | .sreset => 0x01000000#32
  | .jobStart => 0x02000000#32
  | .feed => 0x03000000#32
  | .feedEnd => 0x04000000#32
  | .bufrd => 0x05000000#32
  | .loadcol => 0x06000000#32
  | .setcol => 0x07000000#32
  | .encode => 0x08000000#32
  | .outrd => 0x09000000#32
  | .colrd => 0x0A000000#32

/-- The "mask" column of R74: a word of the row is legal when it agrees with the match on these bits. -/
def maskOf : Mnemonic → Word
  | .nop => 0xFFFFFFFF#32
  | .sreset => 0xFFFFFFFF#32
  | .jobStart => 0xFFFFFFFF#32
  | .feed => 0xFFFFFF00#32
  | .feedEnd => 0xFFFFFFFF#32
  | .bufrd => 0xFF000000#32
  | .loadcol => 0xFFF00000#32
  | .setcol => 0xFF0FFF00#32
  | .encode => 0xFFFFFFFF#32
  | .outrd => 0xFFFFFFC0#32
  | .colrd => 0xFF0FFFFF#32

/-- Whether a reserved operand bit of the word is set: the word is of the row's opcode, and is not one of its fully legal
words ("the exact pattern of a fully legal word", R74). DEDUCED, log 6: R76 and R77 write the test `w & ~mask`, which
taken literally selects the operand bits instead of the `0` positions of R71 that the same sentence names. -/
def reservedNonzero (m : Mnemonic) (w : Word) : Bool := w &&& maskOf m != matchOf m

/-- The fields of R71, taken from the word. -/
def fieldsOf (m : Mnemonic) (w : Word) : Instr :=
  match m with
  | .nop => .nop
  | .sreset => .sreset
  | .jobStart => .jobStart
  | .feed => .feed (fieldB w)
  | .feedEnd => .feedEnd
  | .bufrd => .bufrd (fieldC w) (fieldK w)
  | .loadcol => .loadcol (fieldC w)
  | .setcol => .setcol (fieldK w) (fieldB w)
  | .encode => .encode
  | .outrd => .outrd (fieldI w)
  | .colrd => .colrd (fieldK w)

/-- R77, Decode(w): total on every word, rejecting by name. -/
def decode (w : Word) : Decoded :=
  match mnemonicOf (opcodeField w) with
  | none => .illegal
  | some m => if reservedNonzero m w then .reserved m else .cmd (fieldsOf m w)

/-- The word of a command: its opcode and its fields at the places of R71, every reserved bit 0. -/
def encode : Instr → Word
  | .nop => 0x00#8 ++ 0#24
  | .sreset => 0x01#8 ++ 0#24
  | .jobStart => 0x02#8 ++ 0#24
  | .feed b => 0x03#8 ++ 0#16 ++ b
  | .feedEnd => 0x04#8 ++ 0#24
  | .bufrd c k => 0x05#8 ++ k ++ c
  | .loadcol c => 0x06#8 ++ 0#4 ++ c
  | .setcol k v => 0x07#8 ++ k ++ 0#12 ++ v
  | .encode => 0x08#8 ++ 0#24
  | .outrd i => 0x09#8 ++ 0#18 ++ i
  | .colrd k => 0x0A#8 ++ k ++ 0#20

/-- The row of R74 a command belongs to. -/
def mnemonicOfInstr : Instr → Mnemonic
  | .nop => .nop
  | .sreset => .sreset
  | .jobStart => .jobStart
  | .feed _ => .feed
  | .feedEnd => .feedEnd
  | .bufrd _ _ => .bufrd
  | .loadcol _ => .loadcol
  | .setcol _ _ => .setcol
  | .encode => .encode
  | .outrd _ => .outrd
  | .colrd _ => .colrd

/-- The command word of `nbits` bits `w`, the bits above them zero: what the host's table numbers its bits as. Every
command is one 32-bit word (R70). -/
def tableWord (nbits w : Nat) : Word := BitVec.ofNat 32 (w % 2 ^ nbits)

/-- The command the decoder reads from a word of the opcode table. -/
def decodeTableWord (nbits w : Nat) : Option Instr :=
  match decode (tableWord nbits w) with
  | .cmd i => some i
  | .illegal => none
  | .reserved _ => none

end Sys2Proof
end

