-- ==== Sys2Proof/Config.lean ====
section
/-! DEFINITION. The constants of the hardware (00_scope.md R6 to R9). The two OPEN parameters, MAX_COLUMNS and
BCX_BASE, are NOT fixed here: they are fields of State, so that a statement about every state holds for every value of
them. The two values below are only what `State.reset` starts from. -/

namespace Sys2Proof.Config

/-- `ROW_BLOCK_BYTES`, written N: the height of a column in bytes (R6). -/
abbrev colBytes : Nat := 16

/-- `MAX_HEIGHT` = 8 × N: the largest bitmap height (R7). -/
abbrev maxHeight : Nat := 8 * colBytes

/-- `OUT_CAP` = 3 + 2 × N: the capacity of OUT in bytes (R8). -/
abbrev outCap : Nat := 3 + 2 * colBytes

/-- The upper bound on MAX_COLUMNS: the column field of a command word has 20 bits (R9, 30_encoding.md R73). -/
abbrev columnLimit : Nat := 2 ^ 20

/-- The size of the register window in bytes (10_state.md R20). -/
abbrev windowBytes : Nat := 256

/-- MAX_COLUMNS in `State.reset`: 64, the value 95_test_vectors.md uses. DESIGN CHOICE, log 1: the spec leaves the
parameter OPEN (R9); UNSAFE for a statement about `State.reset` alone, no other statement rests on it. -/
abbrev resetMaxColumns : Nat := 64

/-- BCX_BASE in `State.reset`. DESIGN CHOICE, log 2: the spec leaves the parameter OPEN (20_memory.md R53); UNSAFE for a
statement about `State.reset` alone, no other statement rests on it. -/
abbrev resetBase : Nat := 0

end Sys2Proof.Config
end

