-- ==== Sys2Proof/Machine/State.lean ====
section
/-! DEFINITION. The state of the block (10_state.md R21 to R31, 70_reset_and_hazards.md R200), the host side of its port,
and the reasons a step can stop. Plain data. -/

namespace Sys2Proof.Machine

/-- PSTATE, the scanner's states (R26). Code 15 is never entered, so it is no value of the type (93 U14). -/
inductive PState where
  | idle | magicP | magicT | sep0 | wsW | digW | wsH | digH
  | commentW | commentH | commentP | pix | full | ended | error
deriving DecidableEq, Repr

/-- STATUS.FMT (R22): no type token accepted yet, ASCII mode, binary mode. Value 3 is never read (93 U14). -/
inductive Fmt where
  | none | ascii | binary
deriving DecidableEq, Repr

/-- The FormatError codes of STATUS.PERR (60_exceptions.md R181). Codes 9 to 15 are never raised (93 U14). -/
inductive FormatCode where
  | none | badMagic | unsupportedType | noSeparator | badHeaderChar | zeroDimension
  | widthTooLarge | heightTooLarge | eosInHeader
deriving DecidableEq, Repr

/-- The CmdError codes of STATUS.CERR (R182). Codes 5 to 7 are never raised (93 U14). -/
inductive CmdCode where
  | none | illegalOpcode | reservedNonzero | operandRange | sequence
deriving DecidableEq, Repr

/-- The ten registers of the window (R21). -/
inductive Reg where
  | id | cmd | status | rdata | width | height | outlen | pos | caps | maxcol
deriving DecidableEq, Repr

/-- The size of a host access. Only `word` is supported (20_memory.md R52). -/
inductive AccessSize where
  | byte | half | word
deriving DecidableEq, Repr

/-- What the outside world does to the block, one event at a time (20_memory.md R52, R56; 70_reset_and_hazards.md R201).
An address is an address of the host; the window lies at BCX_BASE (20_memory.md R53). -/
inductive HostEvent where
  /-- A read by the host. -/
  | read (size : AccessSize) (addr : Nat)
  /-- A write by the host. A narrow write's data stands in the low bits; it is refused whatever it is. -/
  | write (size : AccessSize) (addr : Nat) (data : Word)
  /-- The hardware reset input, asserted and released (93 U3: a model has a reset event only). -/
  | hardReset
deriving DecidableEq, Repr

/-- The column buffer BUF as the list of its non-zero bytes, by rising address 16 × c + k (R28). A byte that is not listed
is 0, the value the spec gives every byte at reset (R29). -/
abbrev Memory := List Host.Cell

/-- Everything the spec gives the block, then its two parameters, then the host side of the port. -/
structure State where
  /-- PSTATE, the scanner state (R26). -/
  pstate : PState
  /-- fmt, shown as STATUS.FMT (R27). -/
  fmt : Fmt
  /-- STATUS.FILLED (R22). -/
  filled : Bool
  /-- STATUS.PERR (R22). -/
  perr : FormatCode
  /-- STATUS.CERR (R22). -/
  cerr : CmdCode
  /-- W, shown as WIDTH (R27). -/
  width : BitVec 21
  /-- H, shown as HEIGHT (R27). -/
  height : BitVec 8
  /-- ACC, the decimal accumulator (R27). -/
  acc : BitVec 21
  /-- row, shown in POS[31:24] (R23, R27). -/
  row : BitVec 8
  /-- col, shown in POS[23:0] (R23, R27). -/
  col : BitVec 24
  /-- RDATA[7:0]; bits [31:8] are stuck at 0 (R21, 93 U12). -/
  rdata : Byte
  /-- OUTLEN (R21). -/
  outlen : Word
  /-- BUF, the column buffer (R28). -/
  buf : Memory
  /-- COLREG, the column register (R28). -/
  colreg : Vector Byte Config.colBytes
  /-- OUT, the output buffer (R28). -/
  out : Vector Byte Config.outCap
  /-- MAX_COLUMNS, the parameter the model takes as an argument (00_scope.md R9); no step writes it. -/
  maxColumns : Nat
  /-- BCX_BASE, the parameter of 20_memory.md R53; no step writes it. -/
  bcxBase : Nat
  /-- The MODEL's own field: the host's accesses not yet performed, oldest first (20_memory.md R56). -/
  pending : List HostEvent
  /-- The MODEL's own field: the values returned to the host's reads, oldest first. -/
  replies : List Word
deriving DecidableEq, Repr

/-- Why the machine stops. No command stops it: an error of a command is a recorded code (60_exceptions.md R188). -/
inductive Fault where
  /-- Raised by the host port for an access whose address lies outside the register window: it is no access to the block
  (20_memory.md R50, R53; log 4). SAFE: the model stops where the platform goes on without the block. -/
  | outsideWindow
deriving DecidableEq, Repr

/-- What the model gives no meaning to. -/
inductive Refusal where
  /-- Raised by `exec` for a command that has no meaning yet; no command is left so. SAFE. -/
  | notModelled (mnemonic : String)
  /-- Raised by the host port for an access of 8 or 16 bits: "A model refuses such an access" (20_memory.md R52, 93 U1).
  SAFE: nothing is defined for it. -/
  | subWordAccess
  /-- Raised by the host port for an access at an offset that is not a multiple of 4 (R52, 93 U1). SAFE. -/
  | misalignedAccess
deriving DecidableEq, Repr

/-- The state of R200, for a block with these parameters and nothing pending at its port (log 3). -/
def State.resetWith (maxColumns bcxBase : Nat) : State where
  pstate := .idle
  fmt := .none
  filled := false
  perr := .none
  cerr := .none
  width := 0#21
  height := 0#8
  acc := 0#21
  row := 0#8
  col := 0#24
  rdata := 0#8
  outlen := 0#32
  buf := []
  colreg := Vector.replicate Config.colBytes 0#8
  out := Vector.replicate Config.outCap 0#8
  maxColumns := maxColumns
  bcxBase := bcxBase
  pending := []
  replies := []

/-- The machine right after reset (R200), with the parameter values of log 1 and log 2. -/
def State.reset : State := State.resetWith Config.resetMaxColumns Config.resetBase

end Sys2Proof.Machine
end

