-- ==== Sys2Proof/Machine/Ops.lean ====
section
/-! DEFINITION. The shared operations: bytes of BUF, the two ways an error is raised (60_exceptions.md R185, R186), the
reset (70_reset_and_hazards.md R200), the port's reply. The block has no trap entry and no return (R188, R189): raising
an error records a code and the machine goes on. -/

namespace Sys2Proof.Machine

/-- The byte at an address; an unlisted byte is 0. -/
def Memory.read : Memory → Nat → Byte
  | [], _ => 0#8
  | (x, v) :: m, a => if x = a then v else Memory.read m a

/-- The byte put in front of a list, unless it is 0, the value of an unlisted byte. -/
def Memory.put (a : Nat) (v : Byte) (m : Memory) : Memory := if v = 0#8 then m else (a, v) :: m

/-- Writes a byte and keeps the canonical form: addresses rising, no byte listed that is 0. -/
def Memory.write : Memory → Nat → Byte → Memory
  | [], a, v => Memory.put a v []
  | (x, u) :: m, a, v =>
    if a < x then Memory.put a v ((x, u) :: m)
    else if a = x then Memory.put a v m
    else (x, u) :: Memory.write m a v

/-- The canonical form from an address on: addresses strictly rising from `lo`, no byte 0. -/
def Memory.wfFrom (lo : Nat) : Memory → Bool
  | [] => true
  | (x, v) :: m => decide (lo ≤ x) && v != 0#8 && Memory.wfFrom (x + 1) m

/-- The canonical form: equal contents are equal lists. -/
def Memory.wf (m : Memory) : Bool := Memory.wfFrom 0 m

/-- The address of byte k of column c (10_state.md R28). -/
def bufAddr (c k : Nat) : Nat := Config.colBytes * c + k

/-- `BUF[c][k]` (00_scope.md R12). -/
def bufRead (s : State) (c k : Nat) : Byte := s.buf.read (bufAddr c k)

/-- `BUF[c][k] <- v`. A byte that BUF does not have is not written: no write leaves BUF (41_extractor.md R134; log 7). -/
def bufWrite (c k : Nat) (v : Byte) (s : State) : State :=
  if c < s.maxColumns ∧ k < Config.colBytes then { s with buf := s.buf.write (bufAddr c k) v } else s

/-- `BUF[c]`: the 16 bytes of a column. -/
def bufColumn (s : State) (c : Nat) : Vector Byte Config.colBytes := Vector.ofFn fun k => bufRead s c k.val

/-- `raise CmdError(code)`: the first code is kept, nothing else changes (60_exceptions.md R185). -/
def raiseCmdError (code : CmdCode) (s : State) : State :=
  if s.cerr = .none then { s with cerr := code } else s

/-- `raise FormatError(code)`: PSTATE is ERROR and PERR the code, all else is kept (R186). -/
def raiseFormatError (code : FormatCode) (s : State) : State := { s with pstate := .error, perr := code }

/-- The reset of R200, by the reset input or by SRESET (R201). The parameters are constants of the block; the accesses
the host has still pending and the values it has already been given are the host's, not the block's (log 3). -/
def applyReset (s : State) : State :=
  { State.resetWith s.maxColumns s.bcxBase with pending := s.pending, replies := s.replies }

/-- The host's accesses that are left once the oldest has been taken. -/
def withPending (rest : List HostEvent) (s : State) : State := { s with pending := rest }

/-- The value a read returns to the host. -/
def reply (v : Word) (s : State) : State := { s with replies := s.replies ++ [v] }

/-- `if PSTATE != ERROR: PSTATE <- p`, the end of a header rule (41_extractor.md R124 to R126). -/
def goUnlessError (p : PState) (s : State) : State := if s.pstate = .error then s else { s with pstate := p }

end Sys2Proof.Machine
end

