-- ==== Sys2Proof/Machine/Control.lean ====
section
/-! DEFINITION. The control commands NOP, SRESET and JOB_START (40_control.md R100 to R102). -/

namespace Sys2Proof.Machine

/-- NOP (R100): nothing changes. -/
def execNop (s : State) : Host.Outcome State Fault Refusal := .next s

/-- SRESET (R101): the reset of R200; accepted in every state. -/
def execSreset (s : State) : Host.Outcome State Fault Refusal := .next (applyReset s)

/-- JOB_START (R102): a new bitmap; RDATA, COLREG, OUT and OUTLEN are kept; accepted in every state. -/
def execJobStart (s : State) : Host.Outcome State Fault Refusal :=
  .next { s with
    pstate := .magicP, fmt := .none, filled := false, perr := .none, cerr := .none
    width := 0#21, height := 0#8, acc := 0#21, row := 0#8, col := 0#24, buf := [] }

end Sys2Proof.Machine
end

