-- ==== Sys2Proof/Machine/Operands.lean ====
section
/-! DEFINITION. The operands of the commands: the byte classes of a fed byte (41_extractor.md R120), the range check of
an index operand (30_encoding.md R72) and the sequence check (40_control.md R103). -/

namespace Sys2Proof.Machine

/-- WS, the whitespace bytes: space, TAB, LF, VT, FF, CR (R120). -/
def isWs (b : Byte) : Bool :=
  b == 0x20#8 || b == 0x09#8 || b == 0x0A#8 || b == 0x0B#8 || b == 0x0C#8 || b == 0x0D#8

/-- EOL, the end-of-line bytes: LF, CR (R120). -/
def isEol (b : Byte) : Bool := b == 0x0A#8 || b == 0x0D#8

/-- DIGIT, '0' to '9' (R120). -/
def isDigit (b : Byte) : Bool := decide (0x30 ≤ b.toNat) && decide (b.toNat ≤ 0x39)

/-- The value of a DIGIT, `b - 0x30` (R120). -/
def digitValue (b : Byte) : Nat := b.toNat - 0x30

/-- HASH, '#' (R120). -/
def isHash (b : Byte) : Bool := b == 0x23#8

/-- A column index names a column of BUF (R72). -/
def columnExists (c : BitVec 20) (s : State) : Bool := decide (c.toNat < s.maxColumns)

/-- An OUT index names a byte of OUT (R72). -/
def outIndexExists (i : BitVec 6) : Bool := decide (i.toNat < Config.outCap)

/-- SequenceFails for FEED and FEED_END: no stream is open (R103). -/
def noStream (s : State) : Bool := s.pstate == .idle || s.pstate == .ended

end Sys2Proof.Machine
end

