-- ==== Sys2Proof/Machine/Encoder.lean ====
section
/-! DEFINITION. The PackBits column encoder: the encoding function (42_encoder.md R160 to R164, R168) and its commands
LOADCOL, SETCOL, ENCODE, OUTRD and COLRD (R150 to R154). A position i of a column c is held as the bytes c[i..] that are
left, so RunLen(c, i) is a function of them. -/

namespace Sys2Proof.Machine

/-- How many bytes at the front equal `b`. -/
def leading (b : Byte) : List Byte → Nat
  | [] => 0
  | x :: xs => if x = b then leading b xs + 1 else 0

/-- RunLen (R160): the run of equal bytes at the front of what is left; it never exceeds what is left. -/
def runLen : List Byte → Nat
  | [] => 0
  | x :: xs => leading x xs + 1

/-- The bytes a literal-run takes after the `taken` it has: it stops at the end of the column, at N bytes, and where a run
of more than 2 begins (R160, R164). -/
def literalRest (taken : Nat) : List Byte → Nat
  | [] => 0
  | x :: xs => if taken < Config.colBytes ∧ runLen (x :: xs) ≤ 2 then literalRest (taken + 1) xs + 1 else 0

/-- The count byte of a repeat-run of r bytes: (1 - r) mod 256 (R163). -/
def repeatCount (r : Nat) : Byte := BitVec.ofInt 8 (1 - (r : Int))

/-- The count byte of a literal-run of n bytes: n - 1 (R164). -/
def literalCount (n : Nat) : Byte := BitVec.ofNat 8 (n - 1)

/-- Payload (R160) of the bytes left. Every run takes at least one byte, so `fuel` is enough when it is the number of
bytes left. -/
def payloadFrom : (fuel : Nat) → List Byte → List Byte
  | 0, _ => []
  | _ + 1, [] => []
  | fuel + 1, x :: xs =>
    let r := runLen (x :: xs)
    if r > 2 then repeatCount r :: x :: payloadFrom fuel ((x :: xs).drop r)
    else
      let n := literalRest 1 xs + 1
      literalCount n :: (x :: xs).take n ++ payloadFrom fuel ((x :: xs).drop n)

/-- Payload(c) (R160). -/
def payload (c : Vector Byte Config.colBytes) : List Byte := payloadFrom Config.colBytes c.toList

/-- A column of zeros (R161). -/
def allZero (c : Vector Byte Config.colBytes) : Bool := c.toList.all (· == 0#8)

/-- A two-byte little-endian length, `<len_lsb> <len_msb>` (R161). -/
def lengthBytes (l : Nat) : List Byte := [BitVec.ofNat 8 l, BitVec.ofNat 8 (l / 256)]

/-- EncodeChunk(c) (R161): the sentinel of an empty column, or header, length and payload. -/
def encodeChunk (c : Vector Byte Config.colBytes) : List Byte :=
  if allZero c then [0x5A#8] else 0x47#8 :: lengthBytes (payload c).length ++ payload c

/-- OUT for a chunk: the chunk in wire order, then zeros (R162). -/
def outOf (chunk : List Byte) : Vector Byte Config.outCap := Vector.ofFn fun i => chunk.getD i.val 0#8

/-- LOADCOL c (R150). -/
def execLoadcol (c : BitVec 20) (s : State) : Host.Outcome State Fault Refusal :=
  if columnExists c s then .next { s with colreg := bufColumn s c.toNat }
  else .next (raiseCmdError .operandRange s)

/-- SETCOL k, v (R151): the other bytes are kept. -/
def execSetcol (k : BitVec 4) (v : Byte) (s : State) : Host.Outcome State Fault Refusal :=
  .next { s with colreg := s.colreg.set k.toNat v k.isLt }

/-- ENCODE (R152): COLREG is kept. -/
def execEncode (s : State) : Host.Outcome State Fault Refusal :=
  let chunk := encodeChunk s.colreg
  .next { s with out := outOf chunk, outlen := BitVec.ofNat 32 chunk.length }

/-- OUTRD i (R153). -/
def execOutrd (i : BitVec 6) (s : State) : Host.Outcome State Fault Refusal :=
  if outIndexExists i then .next { s with rdata := s.out.toList.getD i.toNat 0#8 }
  else .next (raiseCmdError .operandRange s)

/-- COLRD k (R154). -/
def execColrd (k : BitVec 4) (s : State) : Host.Outcome State Fault Refusal :=
  .next { s with rdata := s.colreg.get k.toFin }

end Sys2Proof.Machine
end

