-- ==== Sys2Proof/Machine/Extractor.lean ====
section
/-! DEFINITION. The bitmap column extractor: the scanner (41_extractor.md R121 to R136) and its commands FEED, FEED_END
and BUFRD (R110 to R112). -/

namespace Sys2Proof.Machine

/-- AccDigit (R127): the digit is added exactly; a value past the limit is an error and leaves ACC. -/
def accDigit (b : Byte) (limit : Nat) (code : FormatCode) (s : State) : State :=
  let t := s.acc.toNat * 10 + digitValue b
  if t > limit then raiseFormatError code s else { s with acc := BitVec.ofNat 21 t }

/-- EndWidth (R128). -/
def endWidth (s : State) : State :=
  if s.acc = 0#21 then raiseFormatError .zeroDimension s else { s with width := s.acc, acc := 0#21 }

/-- EndHeight (R128). -/
def endHeight (s : State) : State :=
  if s.acc = 0#21 then raiseFormatError .zeroDimension s
  else { s with height := s.acc.setWidth 8, acc := 0#21, row := 0#8, col := 0#24 }

/-- A digit of the width: in WS_W and in DIG_W. -/
def widthDigit (b : Byte) (s : State) : State := accDigit b s.maxColumns .widthTooLarge s

/-- A digit of the height: in WS_H and in DIG_H. -/
def heightDigit (b : Byte) (s : State) : State := accDigit b Config.maxHeight .heightTooLarge s

/-- MAGIC_P (R121). -/
def scanMagicP (b : Byte) (s : State) : State :=
  if b = 0x50#8 then { s with pstate := .magicT } else raiseFormatError .badMagic s

/-- MAGIC_T (R122). -/
def scanMagicT (b : Byte) (s : State) : State :=
  if b = 0x31#8 then { s with fmt := .ascii, pstate := .sep0 }
  else if b = 0x34#8 then { s with fmt := .binary, pstate := .sep0 }
  else raiseFormatError .unsupportedType s

/-- SEP0 (R123). -/
def scanSep0 (b : Byte) (s : State) : State :=
  if isWs b then { s with pstate := .wsW }
  else if isHash b then { s with pstate := .commentW }
  else raiseFormatError .noSeparator s

/-- WS_W (R124). -/
def scanWsW (b : Byte) (s : State) : State :=
  if isWs b then s
  else if isHash b then { s with pstate := .commentW }
  else if isDigit b then goUnlessError .digW (widthDigit b { s with acc := 0#21 })
  else raiseFormatError .badHeaderChar s

/-- WS_H (R124). -/
def scanWsH (b : Byte) (s : State) : State :=
  if isWs b then s
  else if isHash b then { s with pstate := .commentH }
  else if isDigit b then goUnlessError .digH (heightDigit b { s with acc := 0#21 })
  else raiseFormatError .badHeaderChar s

/-- DIG_W (R125). -/
def scanDigW (b : Byte) (s : State) : State :=
  if isDigit b then widthDigit b s
  else if isWs b then goUnlessError .wsH (endWidth s)
  else if isHash b then goUnlessError .commentH (endWidth s)
  else raiseFormatError .badHeaderChar s

/-- DIG_H (R126): exactly one whitespace byte, or the end of a comment, precedes the pixel data. -/
def scanDigH (b : Byte) (s : State) : State :=
  if isDigit b then heightDigit b s
  else if isWs b then goUnlessError .pix (endHeight s)
  else if isHash b then goUnlessError .commentP (endHeight s)
  else raiseFormatError .badHeaderChar s

/-- The three comment states (R129): the end-of-line byte is consumed with the comment. -/
def scanComment (after : PState) (b : Byte) (s : State) : State :=
  if isEol b then { s with pstate := after } else s

/-- The bit of a pixel row in its byte: row 8k is bit 7 of byte k (R134). -/
def pixelMask (r : Nat) : Byte := 1#8 <<< (7 - r % 8)

/-- SetPixel (R134): a pixel outside the declared dimensions is dropped. -/
def setPixel (r c : Nat) (black : Bool) (s : State) : State :=
  if r < s.height.toNat ∧ c < s.width.toNat then
    let old := bufRead s c (r / 8)
    bufWrite c (r / 8) (if black then old ||| pixelMask r else old &&& ~~~ pixelMask r) s
  else s

/-- The position of the next pixel (10_state.md R23). -/
def setPos (r : BitVec 8) (c : BitVec 24) (s : State) : State := { s with row := r, col := c }

/-- The end of the pixel data: all H rows are filled (R133). -/
def setFull (s : State) : State := { s with pstate := .full, filled := true }

/-- AsciiPixel (R131): only '0' and '1' count. -/
def asciiPixel (b : Byte) (s : State) : State :=
  if b = 0x30#8 ∨ b = 0x31#8 then
    let s' := setPixel s.row.toNat s.col.toNat (b == 0x31#8) s
    if s.col.toNat + 1 = s.width.toNat then setPos (s.row + 1#8) 0#24 s' else setPos s.row (s.col + 1#24) s'
  else s

/-- The eight pixels of a byte, most significant bit first (R132). -/
def setByte (b : Byte) (s : State) : State :=
  (List.range 8).foldl (fun s' t => setPixel s.row.toNat (s.col.toNat + t) (b.getLsbD (7 - t)) s') s

/-- BinaryPixel (R132): a row ends at the byte that reaches or passes its width. -/
def binaryPixel (b : Byte) (s : State) : State :=
  let s' := setByte b s
  if s.col.toNat + 8 ≥ s.width.toNat then setPos (s.row + 1#8) 0#24 s' else setPos s.row (s.col + 8#24) s'

/-- CheckFull (R133). -/
def checkFull (s : State) : State := if s.row = s.height then setFull s else s

/-- PIX (R130): '#' and whitespace are no exception here. -/
def scanPix (b : Byte) (s : State) : State :=
  checkFull (if s.fmt = .ascii then asciiPixel b s else binaryPixel b s)

/-- Scan(b), state by state (R121 to R135). IDLE and ENDED are not reached: FEED raises SEQUENCE there (R135). -/
def scan (b : Byte) (s : State) : State :=
  match s.pstate with
  | .idle => s
  | .magicP => scanMagicP b s
  | .magicT => scanMagicT b s
  | .sep0 => scanSep0 b s
  | .wsW => scanWsW b s
  | .digW => scanDigW b s
  | .wsH => scanWsH b s
  | .digH => scanDigH b s
  | .commentW => scanComment .wsW b s
  | .commentH => scanComment .wsH b s
  | .commentP => scanComment .pix b s
  | .pix => scanPix b s
  | .full => s
  | .ended => s
  | .error => s

/-- ScanEnd() (R136). IDLE and ENDED are not reached: FEED_END raises SEQUENCE there. -/
def scanEnd (s : State) : State :=
  match s.pstate with
  | .idle => s
  | .magicP => raiseFormatError .eosInHeader s
  | .magicT => raiseFormatError .eosInHeader s
  | .sep0 => raiseFormatError .eosInHeader s
  | .wsW => raiseFormatError .eosInHeader s
  | .digW => raiseFormatError .eosInHeader s
  | .wsH => raiseFormatError .eosInHeader s
  | .digH => goUnlessError .ended (endHeight s)
  | .commentW => raiseFormatError .eosInHeader s
  | .commentH => raiseFormatError .eosInHeader s
  | .commentP => { s with pstate := .ended }
  | .pix => { s with pstate := .ended }
  | .full => { s with pstate := .ended }
  | .ended => s
  | .error => s

/-- FEED b (R110). -/
def execFeed (b : Byte) (s : State) : Host.Outcome State Fault Refusal :=
  if noStream s then .next (raiseCmdError .sequence s) else .next (scan b s)

/-- FEED_END (R111). -/
def execFeedEnd (s : State) : Host.Outcome State Fault Refusal :=
  if noStream s then .next (raiseCmdError .sequence s) else .next (scanEnd s)

/-- BUFRD c, k (R112): legal in every scanner state. -/
def execBufrd (c : BitVec 20) (k : BitVec 4) (s : State) : Host.Outcome State Fault Refusal :=
  if columnExists c s then .next { s with rdata := bufRead s c.toNat k.toNat }
  else .next (raiseCmdError .operandRange s)

end Sys2Proof.Machine
end

