-- ==== Sys2Proof/Machine/Dispatch.lean ====
section
/-! DEFINITION. One arm per command of spec/opcode_table.json: its Execute arm (40_control.md R103). -/

namespace Sys2Proof.Machine

def exec (i : Instr) (s : State) : Host.Outcome State Fault Refusal :=
  match i with
  | .nop => Sys2Proof.Machine.execNop s
  | .sreset => Sys2Proof.Machine.execSreset s
  | .jobStart => Sys2Proof.Machine.execJobStart s
  | .feed b => Sys2Proof.Machine.execFeed b s
  | .feedEnd => Sys2Proof.Machine.execFeedEnd s
  | .bufrd c k => Sys2Proof.Machine.execBufrd c k s
  | .loadcol c => Sys2Proof.Machine.execLoadcol c s
  | .setcol k v => Sys2Proof.Machine.execSetcol k v s
  | .encode => Sys2Proof.Machine.execEncode s
  | .outrd n => Sys2Proof.Machine.execOutrd n s
  | .colrd k => Sys2Proof.Machine.execColrd k s

end Sys2Proof.Machine
end

