-- ==== Sys2Proof/Machine/Flags.lean ====
section
/-! DEFINITION. The codes of the STATUS fields and the register words (10_state.md R21 to R23, R26; 60_exceptions.md
R181, R182). -/

namespace Sys2Proof.Machine

/-- The PSTATE codes (R26). -/
def PState.code : PState → BitVec 4
  | .idle => 0
  | .magicP => 1
  | .magicT => 2
  | .sep0 => 3
  | .wsW => 4
  | .digW => 5
  | .wsH => 6
  | .digH => 7
  | .commentW => 8
  | .commentH => 9
  | .commentP => 10
  | .pix => 11
  | .full => 12
  | .ended => 13
  | .error => 14

/-- The FMT codes (R22). -/
def Fmt.code : Fmt → BitVec 2
  | .none => 0
  | .ascii => 1
  | .binary => 2

/-- The PERR codes (R181). -/
def FormatCode.code : FormatCode → BitVec 4
  | .none => 0
  | .badMagic => 1
  | .unsupportedType => 2
  | .noSeparator => 3
  | .badHeaderChar => 4
  | .zeroDimension => 5
  | .widthTooLarge => 6
  | .heightTooLarge => 7
  | .eosInHeader => 8

/-- The CERR codes (R182). -/
def CmdCode.code : CmdCode → BitVec 3
  | .none => 0
  | .illegalOpcode => 1
  | .reservedNonzero => 2
  | .operandRange => 3
  | .sequence => 4

/-- STATUS.EERR: hardwired 0 (R22, 42_encoder.md R166). -/
def eerr : BitVec 1 := 0

/-- STATUS (R22), from bit 31 down: reserved 0, CERR, PERR, EERR, FILLED, FMT, PSTATE. -/
def statusWord (s : State) : Word :=
  0#17 ++ s.cerr.code ++ s.perr.code ++ eerr ++ BitVec.ofBool s.filled ++ s.fmt.code ++ s.pstate.code

/-- POS (R23): row in [31:24], col in [23:0]. -/
def posWord (s : State) : Word := s.row ++ s.col

/-- ID (R21): 'B', 'C', 'X', version 1. -/
def idWord : Word := 0x42435801#32

/-- CAPS (R21): N in [7:0], OUT_CAP in [15:8], MAX_HEIGHT in [23:16], 0 above. -/
def capsWord : Word :=
  0#8 ++ BitVec.ofNat 8 Config.maxHeight ++ BitVec.ofNat 8 Config.outCap ++ BitVec.ofNat 8 Config.colBytes

/-- The window offset of a register (R21). -/
def Reg.offset : Reg → Nat
  | .id => 0x00
  | .cmd => 0x04
  | .status => 0x08
  | .rdata => 0x0C
  | .width => 0x10
  | .height => 0x14
  | .outlen => 0x18
  | .pos => 0x1C
  | .caps => 0x20
  | .maxcol => 0x24

/-- The register at a window offset, none at a reserved offset (R20). -/
def Reg.at (off : Nat) : Option Reg :=
  [Reg.id, .cmd, .status, .rdata, .width, .height, .outlen, .pos, .caps, .maxcol].find? fun r => r.offset == off

/-- The value a read of a register returns (R21). A read of CMD returns 0. -/
def readReg (r : Reg) (s : State) : Word :=
  match r with
  | .id => idWord
  | .cmd => 0#32
  | .status => statusWord s
  | .rdata => s.rdata.setWidth 32
  | .width => s.width.setWidth 32
  | .height => s.height.setWidth 32
  | .outlen => s.outlen
  | .pos => posWord s
  | .caps => capsWord
  | .maxcol => BitVec.ofNat 32 s.maxColumns

/-- HostRead(off): the register at the offset, 0 at a reserved offset (20_memory.md R52). -/
def readOffset (off : Nat) (s : State) : Word :=
  match Reg.at off with
  | some r => readReg r s
  | none => 0#32

end Sys2Proof.Machine
end

