-- ==== Sys2Proof/Machine/Port.lean ====
section
/-! DEFINITION. The host port: the command step of 40_control.md R103 and the host accesses of 20_memory.md R52. -/

namespace Sys2Proof.Machine

/-- Step(w) of R103: an accepted CMD write. The range check and the sequence check are each in the meaning they belong
to; no command has both, so their order (60_exceptions.md R183) never shows. -/
def command (w : Word) (s : State) : Host.Outcome State Fault Refusal :=
  match decode w with
  | .illegal => .next (raiseCmdError .illegalOpcode s)
  | .reserved _ => .next (raiseCmdError .reservedNonzero s)
  | .cmd i => exec i s

/-- The checks of a host access (R52, R53): inside the window (log 4), 32 bits, aligned (in this order: log 9); then `k` at its
window offset. -/
def onWindow (size : AccessSize) (addr : Nat) (s : State) (k : Nat → Host.Outcome State Fault Refusal) :
    Host.Outcome State Fault Refusal :=
  if addr < s.bcxBase ∨ s.bcxBase + Config.windowBytes ≤ addr then .fault .outsideWindow
  else if size ≠ .word then .refused .subWordAccess
  else if (addr - s.bcxBase) % 4 ≠ 0 then .refused .misalignedAccess
  else k (addr - s.bcxBase)

/-- HostRead(off) (R52): the value goes to the host; the block does not change (R55). -/
def hostRead (size : AccessSize) (addr : Nat) (s : State) : Host.Outcome State Fault Refusal :=
  onWindow size addr s fun off => .next (reply (readOffset off s) s)

/-- HostWrite(off, v) (R52): at CMD a command word, anywhere else nothing. -/
def hostWrite (size : AccessSize) (addr : Nat) (v : Word) (s : State) : Host.Outcome State Fault Refusal :=
  onWindow size addr s fun off => if off = Reg.offset .cmd then command v s else .next s

/-- One event of the outside world (R52, 70_reset_and_hazards.md R201). -/
def perform (e : HostEvent) (s : State) : Host.Outcome State Fault Refusal :=
  match e with
  | .read size addr => hostRead size addr s
  | .write size addr v => hostWrite size addr v s
  | .hardReset => .next (applyReset s)

/-- The block performs the host's accesses one at a time in the order the host issues them (R56). With none pending it
waits and holds its state (60_exceptions.md R197, 70_reset_and_hazards.md R202). -/
def portStep (s : State) : Host.Outcome State Fault Refusal :=
  match s.pending with
  | [] => .next s
  | e :: rest => perform e (withPending rest s)

end Sys2Proof.Machine
end

