-- ==== Sys2Proof/Machine/Step.lean ====
section
/-! DEFINITION. One step of the machine, and the placing of a command where the next step takes it. -/

namespace Sys2Proof.Machine

/-- One step: the oldest pending host access (20_memory.md R56). -/
def step (s : State) : Host.Outcome State Fault Refusal := portStep s

/-- The state with a CMD write of the word as the next access of the host: the block fetches nothing, each command
arrives whole through CMD (10_state.md R24; log 3). -/
def State.withFetchWord (s : State) (nbits w : Nat) : State :=
  { s with pending := .write .word (s.bcxBase + Reg.offset .cmd) (tableWord nbits w) :: s.pending }

end Sys2Proof.Machine
end

