-- ==== Sys2Proof/Machine/Asm.lean ====
section
/-! DEFINITION. The command assembly text and its pseudo-commands (30_encoding.md R78, R79): how a line of text becomes
accesses of the host. A text is its ASCII codes (00_scope.md R13). What R78 does not fix of the layout of a line is log 8. -/

namespace Sys2Proof.Machine

/-- One host action (R78): a HostWrite of a command word to CMD, or a HostRead of a register. -/
inductive HostAction where
  | issue (i : Instr)
  | read (r : Reg)
deriving DecidableEq, Repr

/-- A line of R78, or a pseudo-command of R79; operands are the numbers written, of any size. -/
inductive AsmLine where
  | command (m : Mnemonic) (operands : List Nat)
  | read (r : Reg)
  | feeds (bytes : List Byte)
  | feedb (operands : List Nat)
  | enccol (c : Nat)
  | setcols (operands : List Nat)
  | getout (n : Nat)
  | getcol (c : Nat)
deriving DecidableEq, Repr

/-- The tokens of a line. -/
inductive Token where
  | name (codes : List Byte)
  | number (n : Nat)
  | str (bytes : List Byte)
  | comma
deriving DecidableEq, Repr

/-- An operand at its field: one that does not fit is an error of the assembler, never truncated (R78). -/
def operandField (width n : Nat) : Option (BitVec width) := if n < 2 ^ width then some (BitVec.ofNat width n) else none

/-- A command with its operands in the order of R78; none where the count or a range is wrong. -/
def assembleCommand (m : Mnemonic) (operands : List Nat) : Option Instr :=
  match m, operands with
  | .nop, [] => some .nop
  | .sreset, [] => some .sreset
  | .jobStart, [] => some .jobStart
  | .feed, [b] => (operandField 8 b).map .feed
  | .feedEnd, [] => some .feedEnd
  | .bufrd, [c, k] => (operandField 20 c).bind fun c' => (operandField 4 k).map fun k' => .bufrd c' k'
  | .loadcol, [c] => (operandField 20 c).map .loadcol
  | .setcol, [k, v] => (operandField 4 k).bind fun k' => (operandField 8 v).map fun v' => .setcol k' v'
  | .encode, [] => some .encode
  | .outrd, [i] => (operandField 6 i).map .outrd
  | .colrd, [k] => (operandField 4 k).map .colrd
  | _, _ => none

/-- All the values, if each is there. -/
def allSome {α : Type} : List (Option α) → Option (List α)
  | [] => some []
  | x :: xs => x.bind fun a => (allSome xs).map (a :: ·)

/-- One command of an expansion. -/
def issueLine (m : Mnemonic) (operands : List Nat) : Option HostAction := (assembleCommand m operands).map .issue

/-- The exact expansion of a line (R79); a line that is no pseudo-command is one host action (R78). -/
def AsmLine.expand : AsmLine → Option (List HostAction)
  | .command m operands => allSome [issueLine m operands]
  | .read r => some [.read r]
  | .feeds bytes => some (bytes.map fun b => .issue (.feed b))
  | .feedb operands => if operands = [] then none else allSome (operands.map fun b => issueLine .feed [b])
  | .enccol c => allSome [issueLine .loadcol [c], issueLine .encode []]
  | .setcols operands =>
    if operands.length = Config.colBytes then
      allSome (operands.zipIdx.map fun (v, k) => issueLine .setcol [k, v])
    else none
  | .getout n => allSome ((List.range n).flatMap fun i => [issueLine .outrd [i], some (.read .rdata)])
  | .getcol c =>
    allSome ((List.range Config.colBytes).flatMap fun k => [issueLine .bufrd [c, k], some (.read .rdata)])

/-- The access of a host action, for a window at `base`. -/
def HostAction.event (base : Nat) : HostAction → HostEvent
  | .issue i => .write .word (base + Reg.offset .cmd) (encode i)
  | .read r => .read .word (base + r.offset)

/-- The host issues these actions after those it has pending. -/
def issueActions (actions : List HostAction) (s : State) : State :=
  { s with pending := s.pending ++ actions.map (HostAction.event s.bcxBase) }

/-! The text. -/

/-- The ASCII codes of a text. -/
def codesOf (text : String) : List Byte := text.toList.map fun c => BitVec.ofNat 8 c.toNat

/-- The value of a hexadecimal digit. -/
def hexDigit (c : Byte) : Option Nat :=
  if 0x30#8 ≤ c ∧ c ≤ 0x39#8 then some (c.toNat - 0x30)
  else if 0x41#8 ≤ c ∧ c ≤ 0x46#8 then some (c.toNat - 0x41 + 10)
  else if 0x61#8 ≤ c ∧ c ≤ 0x66#8 then some (c.toNat - 0x61 + 10)
  else none

/-- The value of digits in a base of at most 16, most significant first; none without a digit or with a wrong one. -/
def digitsValue (base : Nat) (cs : List Byte) : Option Nat :=
  if cs = [] then none
  else cs.foldl (fun acc c => acc.bind fun n => (hexDigit c).bind fun d => if d < base then some (n * base + d) else none)
    (some 0)

/-- A decimal or hexadecimal number (R78). -/
def numberOf : List Byte → Option Nat
  | 0x30#8 :: 0x78#8 :: cs => digitsValue 16 cs
  | cs => digitsValue 10 cs

/-- The one-character escapes of R79: `\n`, `\r`, `\t`, `\\` and `\"`. -/
def escapeByte (c : Byte) : Option Byte :=
  if c = 0x6E#8 then some 0x0A#8
  else if c = 0x72#8 then some 0x0D#8
  else if c = 0x74#8 then some 0x09#8
  else if c = 0x5C#8 then some 0x5C#8
  else if c = 0x22#8 then some 0x22#8
  else none

/-- The bytes of a string after its opening quote, and what follows its closing quote (R79). -/
def stringOf : List Byte → Option (List Byte × List Byte)
  | [] => none
  | 0x5C#8 :: 0x78#8 :: h :: l :: cs =>
    (digitsValue 16 [h, l]).bind fun n => (stringOf cs).map fun r => (BitVec.ofNat 8 n :: r.1, r.2)
  | 0x5C#8 :: e :: cs => (escapeByte e).bind fun b => (stringOf cs).map fun r => (b :: r.1, r.2)
  | c :: cs => if c = 0x22#8 then some ([], cs) else (stringOf cs).map fun r => (c :: r.1, r.2)

/-- A character of a name or a number: a letter, a digit or '_'. -/
def isNameChar (c : Byte) : Bool :=
  isDigit c || (decide (0x41#8 ≤ c) && decide (c ≤ 0x5A#8)) || (decide (0x61#8 ≤ c) && decide (c ≤ 0x7A#8)) || c == 0x5F#8

/-- A token put before the rest of a line. -/
def consToken (t : Token) (rest : Option (List Token)) : Option (List Token) := rest.map (t :: ·)

/-- The tokens of a line; a comment runs from ';' to the end (R78). Every token takes a character, so `fuel` is enough when
it is the length of the line. -/
def tokensFrom : (fuel : Nat) → List Byte → Option (List Token)
  | _, [] => some []
  | 0, _ => none
  | fuel + 1, c :: cs =>
    if c = 0x3B#8 then some []
    else if c = 0x20#8 ∨ c = 0x09#8 then tokensFrom fuel cs
    else if c = 0x2C#8 then consToken .comma (tokensFrom fuel cs)
    else if c = 0x22#8 then (stringOf cs).bind fun r => consToken (.str r.1) (tokensFrom fuel r.2)
    else if c = 0x27#8 then
      match cs with
      | x :: 0x27#8 :: rest => consToken (.number x.toNat) (tokensFrom fuel rest)
      | _ => none
    else if isDigit c then
      (numberOf ((c :: cs).takeWhile isNameChar)).bind fun n =>
        consToken (.number n) (tokensFrom fuel ((c :: cs).dropWhile isNameChar))
    else if isNameChar c then
      consToken (.name ((c :: cs).takeWhile isNameChar)) (tokensFrom fuel ((c :: cs).dropWhile isNameChar))
    else none

/-- The numbers of an operand list, separated by commas (R78). -/
def operandsOf : List Token → Option (List Nat)
  | [] => some []
  | [.number n] => some [n]
  | .number n :: .comma :: .number m :: ts => (operandsOf (.number m :: ts)).map (n :: ·)
  | _ => none

/-- The command mnemonics (R74), as written. -/
def mnemonicNames : List (List Byte × Mnemonic) :=
  [(codesOf "NOP", .nop), (codesOf "SRESET", .sreset), (codesOf "JOB_START", .jobStart), (codesOf "FEED", .feed),
   (codesOf "FEED_END", .feedEnd), (codesOf "BUFRD", .bufrd), (codesOf "LOADCOL", .loadcol), (codesOf "SETCOL", .setcol),
   (codesOf "ENCODE", .encode), (codesOf "OUTRD", .outrd), (codesOf "COLRD", .colrd)]

/-- The register names (10_state.md R21), as written. -/
def registerNames : List (List Byte × Reg) :=
  [(codesOf "ID", .id), (codesOf "CMD", .cmd), (codesOf "STATUS", .status), (codesOf "RDATA", .rdata),
   (codesOf "WIDTH", .width), (codesOf "HEIGHT", .height), (codesOf "OUTLEN", .outlen), (codesOf "POS", .pos),
   (codesOf "CAPS", .caps), (codesOf "MAXCOL", .maxcol)]

/-- A pseudo-command with numbers as operands (R79). -/
def pseudoOf (name : List Byte) (operands : List Nat) : Option AsmLine :=
  if name = codesOf "FEEDB" then some (.feedb operands)
  else if name = codesOf "SETCOLS" then some (.setcols operands)
  else match operands with
    | [n] =>
      if name = codesOf "ENCCOL" then some (.enccol n)
      else if name = codesOf "GETOUT" then some (.getout n)
      else if name = codesOf "GETCOL" then some (.getcol n)
      else none
    | _ => none

/-- The line a name and its tokens stand for. -/
def lineOf (name : List Byte) (args : List Token) : Option AsmLine :=
  match args with
  | [.name r] => if name = codesOf "READ" then (registerNames.lookup r).map .read else none
  | [.str bytes] => if name = codesOf "FEEDS" then some (.feeds bytes) else none
  | _ =>
    (operandsOf args).bind fun operands =>
      match mnemonicNames.lookup name with
      | some m => some (.command m operands)
      | none => pseudoOf name operands

/-- A line of text as host actions: none for an error of the assembler, no action for a blank line or a comment (R78). -/
def assembleLine (text : List Byte) : Option (List HostAction) :=
  (tokensFrom text.length text).bind fun tokens =>
    match tokens with
    | [] => some []
    | .name n :: args => (lineOf n args).bind AsmLine.expand
    | _ => none

/-- A program: its lines in order. -/
def assemble (lines : List (List Byte)) : Option (List HostAction) := (allSome (lines.map assembleLine)).map List.flatten

end Sys2Proof.Machine
end

