-- ==== Sys2Proof/Machine/Oracle.lean ====
section
/-! DEFINITION. The run-length decoder of 42_encoder.md R165. It is the spec's TEST ORACLE, no function of the block
(00_scope.md R5, 93 S1): no step calls it. Claims about the encoder are stated with it. -/

namespace Sys2Proof.Machine

/-- The bytes of a payload (R165): a count byte h of 0x80 and more repeats the next byte 1 - h times (h as a signed byte),
a smaller one copies the next h + 1 bytes. None where the payload ends inside a run. `fuel` is enough when it is the
length of the payload. -/
def decodePayload : (fuel : Nat) → List Byte → Option (List Byte)
  | _, [] => some []
  | 0, _ => none
  | fuel + 1, h :: rest =>
    if 0x80 ≤ h.toNat then
      match rest with
      | [] => none
      | v :: rest' => (decodePayload fuel rest').map (List.replicate (1 - h.toInt).toNat v ++ ·)
    else if rest.length < h.toNat + 1 then none
    else (decodePayload fuel (rest.drop (h.toNat + 1))).map (rest.take (h.toNat + 1) ++ ·)

/-- Decode(chunk) (R165); none for a list of bytes that is no chunk. -/
def decodeChunk (chunk : List Byte) : Option (List Byte) :=
  match chunk with
  | [0x5A#8] => some (List.replicate Config.colBytes 0#8)
  | 0x47#8 :: lsb :: msb :: p =>
    let l := lsb.toNat + 256 * msb.toNat
    if p.length < l then none else decodePayload l (p.take l)
  | _ => none

end Sys2Proof.Machine
end

