-- ==== Sys2Proof/WellFormed.lean ====
section
/-! DEFINITION. Which commands name only storage that exists, for a block with `maxColumns` columns (30_encoding.md
R72). The types of the operands already bound each field by its width. A command that is not well formed still decodes
and still runs: its meaning raises OPERAND_RANGE (40_control.md R103). -/

namespace Sys2Proof

/-- R72: "c must be below MAX_COLUMNS; i must be below OUT_CAP = 35"; the byte index k needs no check. -/
def Instr.WellFormed (maxColumns : Nat) : Instr → Bool
  | .nop => true
  | .sreset => true
  | .jobStart => true
  | .feed _ => true
  | .feedEnd => true
  | .bufrd c _ => decide (c.toNat < maxColumns)
  | .loadcol c => decide (c.toNat < maxColumns)
  | .setcol _ _ => true
  | .encode => true
  | .outrd i => decide (i.toNat < Config.outCap)
  | .colrd _ => true

end Sys2Proof
end

