-- ==== Sys2Proof/Safety.lean ====
section
/-! DEFINITION. The terms claims use: pixels, the invariants of the block, what a command leaves alone. -/

namespace Sys2Proof.Machine

/-- Pixel (r, c) of the column buffer: bit 7 - (r mod 8) of `BUF[c][r div 8]` (00_scope.md R16). True is black. -/
def pixel (s : State) (r c : Nat) : Bool := (bufRead s c (r / 8)).getLsbD (7 - r % 8)

/-- The constraints on the two parameters (00_scope.md R9, 20_memory.md R53). -/
abbrev ParamsOk (s : State) : Prop :=
  1 ≤ s.maxColumns ∧ s.maxColumns ≤ Config.columnLimit ∧ s.bcxBase % Config.windowBytes = 0

/-- BUF is in canonical form and lists only bytes it has (10_state.md R28). -/
def BufOk (s : State) : Prop :=
  s.buf.wf = true ∧ ∀ cell ∈ s.buf, cell.1 < Config.colBytes * s.maxColumns

/-- The states before the type byte is accepted. -/
def PState.beforeType (p : PState) : Bool := p == .idle || p == .magicP || p == .magicT

/-- The states before the width token is accepted, of a stream that had no error. -/
def PState.beforeWidth (p : PState) : Bool :=
  p.beforeType || p == .sep0 || p == .wsW || p == .digW || p == .commentW

/-- The states before the height token is accepted, of a stream that had no error. -/
def PState.beforeHeight (p : PState) : Bool :=
  p.beforeWidth || p == .wsH || p == .digH || p == .commentH

/-- What the scanner's registers and variables always satisfy (10_state.md R22, R23, R26, R27). -/
structure ScannerOk (s : State) : Prop where
  /-- PERR is set only together with PSTATE = ERROR (R22). -/
  perrIffError : s.perr ≠ .none ↔ s.pstate = .error
  /-- W ≤ MAX_COLUMNS (R27). -/
  widthLe : s.width.toNat ≤ s.maxColumns
  /-- H ≤ 128 (R27). -/
  heightLe : s.height.toNat ≤ Config.maxHeight
  /-- ACC never exceeds max(MAX_COLUMNS, MAX_HEIGHT) (R27). -/
  accLe : s.acc.toNat ≤ max s.maxColumns Config.maxHeight
  /-- Inside the width token ACC is at most its limit (41_extractor.md R127). -/
  accLeWidth : s.pstate = .digW → s.acc.toNat ≤ s.maxColumns
  /-- Inside the height token ACC is at most its limit (R127). -/
  accLeHeight : s.pstate = .digH → s.acc.toNat ≤ Config.maxHeight
  /-- Outside a token ACC is 0, but where an error left it (R128, 60_exceptions.md R186). -/
  accZero : s.pstate ≠ .digW → s.pstate ≠ .digH → s.pstate ≠ .error → s.acc = 0#21
  /-- A type is set exactly once the type byte is accepted (R22); an error leaves it as it was. -/
  fmtSet : s.pstate ≠ .error → (s.fmt = .none ↔ s.pstate.beforeType = true)
  /-- WIDTH is non-zero exactly once the width token is accepted (R21). -/
  widthSet : s.pstate ≠ .error → (s.width = 0#21 ↔ s.pstate.beforeWidth = true)
  /-- HEIGHT is non-zero exactly once the height token is accepted (R21). -/
  heightSet : s.pstate ≠ .error → (s.height = 0#8 ↔ s.pstate.beforeHeight = true)
  /-- No FormatError after the height token: an error leaves HEIGHT 0 (60_exceptions.md R181). -/
  heightError : s.pstate = .error → s.height = 0#8
  /-- Before pixel data begins POS is 0 (R23). -/
  posZero : s.pstate ≠ .pix → s.pstate ≠ .full → s.pstate ≠ .ended → s.row = 0#8 ∧ s.col = 0#24
  /-- In PIX the next pixel lies inside the bitmap. -/
  posInside : s.pstate = .pix → s.row.toNat < s.height.toNat ∧ s.col.toNat < s.width.toNat
  /-- row ≤ H (R23). -/
  rowLe : s.row.toNat ≤ s.height.toNat
  /-- In binary mode col is a multiple of 8 (R23). -/
  colMultiple : s.fmt = .binary → s.col.toNat % 8 = 0
  /-- After the stream's end too, col is a column of the bitmap, or 0. -/
  colInside : s.col.toNat < s.width.toNat ∨ s.col = 0#24
  /-- FULL is entered with FILLED set (R133). -/
  fullFilled : s.pstate = .full → s.filled = true
  /-- FILLED says that all H rows are filled: row = H and col = 0 (R22, R23). -/
  filledDone : s.filled = true → (s.pstate = .full ∨ s.pstate = .ended) ∧ s.row = s.height ∧ s.col = 0#24

/-- Every pixel outside the declared dimensions is white: columns c ≥ W (10_state.md R29), rows r ≥ H (41_extractor.md
R137). -/
def OutsideWhite (s : State) : Prop :=
  ∀ r c, r < Config.maxHeight → s.height.toNat ≤ r ∨ s.width.toNat ≤ c → pixel s r c = false

/-- OUTLEN is 0 before the first ENCODE, then 1 or 5 to 20, and the bytes of OUT past it are 0 (10_state.md R28, R31;
42_encoder.md R166). -/
def OutOk (s : State) : Prop :=
  (s.outlen.toNat = 0 ∨ s.outlen.toNat = 1 ∨ (5 ≤ s.outlen.toNat ∧ s.outlen.toNat ≤ 20)) ∧
    ∀ i, (h : i < Config.outCap) → s.outlen.toNat ≤ i → s.out[i] = 0#8

/-- The invariant of the block. -/
structure Inv (s : State) : Prop where
  params : ParamsOk s
  buffer : BufOk s
  scanner : ScannerOk s
  white : OutsideWhite s
  output : OutOk s

/-- The two states agree on the scanner's registers and variables and on BUF. -/
def SameScanner (s t : State) : Prop :=
  t.pstate = s.pstate ∧ t.fmt = s.fmt ∧ t.filled = s.filled ∧ t.perr = s.perr ∧ t.width = s.width ∧
    t.height = s.height ∧ t.acc = s.acc ∧ t.row = s.row ∧ t.col = s.col ∧ ∀ a, t.buf.read a = s.buf.read a

/-- The two states agree on what the encoder and the reading commands write. -/
def SameEncoder (s t : State) : Prop :=
  t.rdata = s.rdata ∧ t.outlen = s.outlen ∧ t.colreg = s.colreg ∧ t.out = s.out

/-- The two states agree on the parameters and on the host side of the port. -/
def SameOutside (s t : State) : Prop :=
  t.maxColumns = s.maxColumns ∧ t.bcxBase = s.bcxBase ∧ t.pending = s.pending ∧ t.replies = s.replies

/-- The state after a CmdError: the first code is kept, nothing else changes (60_exceptions.md R185). -/
def afterCmdError (code : CmdCode) (s : State) : State := { s with cerr := if s.cerr = .none then code else s.cerr }

/-- The PSTATE codes of 10_state.md R26, transcribed for the statements. -/
def pstateCodes : List (PState × BitVec 4) :=
  [(.idle, 0#4), (.magicP, 1#4), (.magicT, 2#4), (.sep0, 3#4), (.wsW, 4#4), (.digW, 5#4), (.wsH, 6#4), (.digH, 7#4),
   (.commentW, 8#4), (.commentH, 9#4), (.commentP, 10#4), (.pix, 11#4), (.full, 12#4), (.ended, 13#4), (.error, 14#4)]

/-- The FMT codes of 10_state.md R22. -/
def fmtCodes : List (Fmt × BitVec 2) := [(.none, 0#2), (.ascii, 1#2), (.binary, 2#2)]

/-- The PERR codes of 60_exceptions.md R181. -/
def perrCodes : List (FormatCode × BitVec 4) :=
  [(.none, 0#4), (.badMagic, 1#4), (.unsupportedType, 2#4), (.noSeparator, 3#4), (.badHeaderChar, 4#4),
   (.zeroDimension, 5#4), (.widthTooLarge, 6#4), (.heightTooLarge, 7#4), (.eosInHeader, 8#4)]

/-- The CERR codes of 60_exceptions.md R182. -/
def cerrCodes : List (CmdCode × BitVec 3) :=
  [(.none, 0#3), (.illegalOpcode, 1#3), (.reservedNonzero, 2#3), (.operandRange, 3#3), (.sequence, 4#3)]

/-- RunLen(x, i) = r (42_encoder.md R160): the r bytes from position i on are equal, they lie in the column, and no more
do. -/
def RunLenIs (x : Vector Byte Config.colBytes) (i r : Nat) : Prop :=
  1 ≤ r ∧ i + r ≤ Config.colBytes ∧ (∀ t, t < r → x[i + t]? = x[i]?) ∧
    (i + r < Config.colBytes → x[i + r]? ≠ x[i]?)

/-- A run of more than 2 begins at position i (R160, R163). -/
def LongRunAt (x : Vector Byte Config.colBytes) (i : Nat) : Prop := ∃ r, 2 < r ∧ RunLenIs x i r

/-- The values of R200 (70_reset_and_hazards.md), field by field. -/
structure BlockReset (s : State) : Prop where
  pstate : s.pstate = .idle
  fmt : s.fmt = .none
  filled : s.filled = false
  perr : s.perr = .none
  cerr : s.cerr = .none
  status : statusWord s = 0#32
  width : s.width = 0#21
  height : s.height = 0#8
  acc : s.acc = 0#21
  row : s.row = 0#8
  col : s.col = 0#24
  pos : posWord s = 0#32
  rdata : s.rdata = 0#8
  outlen : s.outlen = 0#32
  buf : ∀ c k, bufRead s c k = 0#8
  colreg : ∀ k, (h : k < Config.colBytes) → s.colreg[k] = 0#8
  out : ∀ i, (h : i < Config.outCap) → s.out[i] = 0#8
  id : readReg .id s = 0x42435801#32
  caps : readReg .caps s = 0x00802310#32
  maxcol : readReg .maxcol s = BitVec.ofNat 32 s.maxColumns

/-- What begins again: the reset input, SRESET or JOB_START, as the host's next access. -/
def RestartsNext (s : State) : Prop :=
  ∃ rest, s.pending = .hardReset :: rest ∨ s.pending = .write .word (s.bcxBase + 4) 0x01000000#32 :: rest ∨
    s.pending = .write .word (s.bcxBase + 4) 0x02000000#32 :: rest

/-- The host's next access is a CMD write of the word. -/
abbrev NextIsCommand (s : State) (w : Word) (rest : List HostEvent) : Prop :=
  s.pending = .write .word (s.bcxBase + 4) w :: rest

end Sys2Proof.Machine

namespace Sys2Proof

/-- WS, the whitespace bytes of 41_extractor.md R120. -/
def wsBytes : List Byte := [0x20#8, 0x09#8, 0x0A#8, 0x0B#8, 0x0C#8, 0x0D#8]

/-- EOL, the end-of-line bytes of R120. -/
def eolBytes : List Byte := [0x0A#8, 0x0D#8]

/-- DIGIT of R120: '0' to '9'. -/
abbrev IsDigitByte (b : Byte) : Prop := 0x30 ≤ b.toNat ∧ b.toNat ≤ 0x39

/-- The operands of a command as the numbers an assembly line writes, in the order of 30_encoding.md R78. -/
def Instr.numbers : Instr → List Nat
  | .nop => []
  | .sreset => []
  | .jobStart => []
  | .feed b => [b.toNat]
  | .feedEnd => []
  | .bufrd c k => [c.toNat, k.toNat]
  | .loadcol c => [c.toNat]
  | .setcol k v => [k.toNat, v.toNat]
  | .encode => []
  | .outrd i => [i.toNat]
  | .colrd k => [k.toNat]

/-- FEED and FEED_END, the commands that need an open stream (40_control.md R103). -/
def Instr.UsesStream (i : Instr) : Prop := i = .feedEnd ∨ ∃ b, i = .feed b

/-- The `0` positions of R71, by the row's format: N, B, C, L, K, O, R. -/
def reservedPositions : Mnemonic → Word
  | .nop => 0x00FFFFFF#32
  | .sreset => 0x00FFFFFF#32
  | .jobStart => 0x00FFFFFF#32
  | .feed => 0x00FFFF00#32
  | .feedEnd => 0x00FFFFFF#32
  | .bufrd => 0x00000000#32
  | .loadcol => 0x00F00000#32
  | .setcol => 0x000FFF00#32
  | .encode => 0x00FFFFFF#32
  | .outrd => 0x00FFFFC0#32
  | .colrd => 0x000FFFFF#32

end Sys2Proof
end

