-- ==== Sys2Proof/Certificates/Slice0/Obligations.lean ====
section
/-! DEFINITION. The statements for the provers. Each docstring says which rule of spec/ the statement formalises. -/

open Sys2Proof Sys2Proof.Machine

/-! ## Encoding -/

/-- Words written out bit by bit from the formats of 30_encoding.md R71 and R74, one for each command, and the
undecodable ones of 95_test_vectors.md section 2.1. The reserved bits are read as log 6 says. -/
def Obligations.DecodeReadsSpecWords : Prop :=
  decode 0b00000000000000000000000000000000#32 = .cmd .nop ∧
  decode 0b00000001000000000000000000000000#32 = .cmd .sreset ∧
  decode 0b00000010000000000000000000000000#32 = .cmd .jobStart ∧
  decode 0b00000011000000000000000011110001#32 = .cmd (.feed 0xF1#8) ∧
  decode 0b00000100000000000000000000000000#32 = .cmd .feedEnd ∧
  decode 0b00000101111000000000000000111111#32 = .cmd (.bufrd 63#20 14#4) ∧
  decode 0b00000110000011111111111111111110#32 = .cmd (.loadcol 0xFFFFE#20) ∧
  decode 0b00000111101000000000000011000011#32 = .cmd (.setcol 10#4 0xC3#8) ∧
  decode 0b00001000000000000000000000000000#32 = .cmd .encode ∧
  decode 0b00001001000000000000000000100011#32 = .cmd (.outrd 35#6) ∧
  decode 0b00001010011100000000000000000000#32 = .cmd (.colrd 7#4) ∧
  decode 0b00001011000000000000000000000000#32 = .illegal ∧
  decode 0b00000011000000000000000100000000#32 = .reserved .feed ∧
  decode 0b00001001000000000000000001000000#32 = .reserved .outrd

/-- Every command, with every operand at every value its field admits, is read back from its word (R71, R77). -/
def Obligations.DecodeOfEncode : Prop := ∀ i : Instr, decode (encode i) = .cmd i

/-- A word that decodes to a command is that command's word: no two words decode to the same command, and no bit of a
decoded word is ignored (R74, R76). The reserved bits are the `0` positions of R71, the reading of log 6. -/
def Obligations.EncodeOfDecode : Prop := ∀ (w : Word) (i : Instr), decode w = .cmd i → encode i = w

/-- R75: opcodes 0x0B to 0xFF raise ILLEGAL_OPCODE and do nothing else, in every state; no other opcode is illegal. -/
def Obligations.IllegalOpcodeExecutesNothing : Prop :=
  (∀ (w : Word) (s : State), 0x0B ≤ (w.extractLsb' 24 8).toNat →
    decode w = .illegal ∧ command w s = .next (afterCmdError .illegalOpcode s)) ∧
  ∀ w : Word, (w.extractLsb' 24 8).toNat ≤ 0x0A → decode w ≠ .illegal

/-- R71 and R76: a legal opcode with a reserved bit set raises RESERVED_NONZERO and does nothing else; with none set it is
a command. The reserved bits are the `0` positions of R71, the reading of log 6. -/
def Obligations.ReservedBitExecutesNothing : Prop :=
  ∀ (w : Word) (m : Mnemonic) (s : State), mnemonicOf (w.extractLsb' 24 8) = some m →
    (w &&& reservedPositions m ≠ 0#32 →
      decode w = .reserved m ∧ command w s = .next (afterCmdError .reservedNonzero s)) ∧
    (w &&& reservedPositions m = 0#32 → ∃ i, decode w = .cmd i ∧ mnemonicOfInstr i = m)

/-! ## The step -/

/-- R103 and 20_memory.md R56: the host's CMD write of a word runs its command on the state without that access. The list
of pending accesses is the model's own (log 3). -/
def Obligations.StepRunsDecodedCommand : Prop :=
  ∀ (s : State) (w : Word) (i : Instr) (rest : List HostEvent), NextIsCommand s w rest → decode w = .cmd i →
    step s = exec i { s with pending := rest }

/-- A CMD write of a word that is no command records its error and leaves the machine running (R103). The list of pending
accesses is the model's own (log 3). -/
def Obligations.StepRecordsUndecodedWord : Prop :=
  ∀ (s : State) (w : Word) (rest : List HostEvent), NextIsCommand s w rest →
    (decode w = .illegal → step s = .next (afterCmdError .illegalOpcode { s with pending := rest })) ∧
    ∀ m, decode w = .reserved m → step s = .next (afterCmdError .reservedNonzero { s with pending := rest })

/-- R103, Step(w), with its order of checks. -/
def Obligations.CommandChecksInOrder : Prop :=
  ∀ (w : Word) (s : State),
    (decode w = .illegal → command w s = .next (afterCmdError .illegalOpcode s)) ∧
    (∀ m, decode w = .reserved m → command w s = .next (afterCmdError .reservedNonzero s)) ∧
    ∀ i, decode w = .cmd i →
      (i.WellFormed s.maxColumns = false → command w s = .next (afterCmdError .operandRange s)) ∧
      (i.WellFormed s.maxColumns = true → i.UsesStream → s.pstate = .idle ∨ s.pstate = .ended →
        command w s = .next (afterCmdError .sequence s)) ∧
      (i.WellFormed s.maxColumns = true → ¬ (i.UsesStream ∧ (s.pstate = .idle ∨ s.pstate = .ended)) →
        command w s = exec i s ∧ ∃ t, exec i s = .next t ∧ (t.cerr = s.cerr ∨ t.cerr = .none))

/-- 20_memory.md R52, the host access rules, over the lists of accesses and replies, which are the model's own (log 3). The
names of the refusals, and which of them an access has that is both narrow and misaligned, are the model's own (log 9). -/
def Obligations.HostAccessRules : Prop :=
  ∀ (s : State) (rest : List HostEvent) (size : AccessSize) (off : Nat) (v : Word), off < 256 →
    (s.pending = .read size (s.bcxBase + off) :: rest →
      (size = .word → off % 4 = 0 →
        step s = .next { s with pending := rest, replies := s.replies ++ [readOffset off s] }) ∧
      (size ≠ .word → step s = .refused .subWordAccess) ∧
      (size = .word → off % 4 ≠ 0 → step s = .refused .misalignedAccess)) ∧
    (s.pending = .write size (s.bcxBase + off) v :: rest →
      (size = .word → off = 4 → step s = command v { s with pending := rest }) ∧
      (size = .word → off % 4 = 0 → off ≠ 4 → step s = .next { s with pending := rest }) ∧
      (size ≠ .word → step s = .refused .subWordAccess) ∧
      (size = .word → off % 4 ≠ 0 → step s = .refused .misalignedAccess))

/-- The model's own choice (log 4): an address outside the window is no access to the block. -/
def Obligations.OutsideWindowFaults : Prop :=
  ∀ (s : State) (rest : List HostEvent) (size : AccessSize) (addr : Nat) (v : Word),
    addr < s.bcxBase ∨ s.bcxBase + 256 ≤ addr →
    s.pending = .read size addr :: rest ∨ s.pending = .write size addr v :: rest → step s = .fault .outsideWindow

/-- 60_exceptions.md R197 and 70_reset_and_hazards.md R202: with no access pending the block holds its state. That such
a step exists is the model's choice (log 3). -/
def Obligations.WaitingHoldsState : Prop := ∀ s : State, s.pending = [] → step s = .next s

/-- 20_memory.md R55: two reads of one register with no write between them return the same value and change nothing. The
lists of accesses and replies are the model's own (log 3). -/
def Obligations.ReadsAreIdempotent : Prop :=
  ∀ (s : State) (off : Nat) (rest : List HostEvent), off < 256 → off % 4 = 0 →
    s.pending = .read .word (s.bcxBase + off) :: .read .word (s.bcxBase + off) :: rest →
    ∃ t u v, step s = .next t ∧ step t = .next u ∧ u = { s with pending := rest, replies := s.replies ++ [v, v] }

/-- 10_state.md R20 and R21: what each offset of the window reads. -/
def Obligations.RegisterReadValues : Prop :=
  ∀ s : State,
    readOffset 0x00 s = 0x42435801#32 ∧ readOffset 0x04 s = 0#32 ∧ readOffset 0x08 s = statusWord s ∧
    (readOffset 0x0C s).toNat = s.rdata.toNat ∧ (readOffset 0x10 s).toNat = s.width.toNat ∧
    (readOffset 0x14 s).toNat = s.height.toNat ∧ readOffset 0x18 s = s.outlen ∧ readOffset 0x1C s = posWord s ∧
    readOffset 0x20 s = 0x00802310#32 ∧ (s.maxColumns ≤ 2 ^ 20 → (readOffset 0x24 s).toNat = s.maxColumns) ∧
    ∀ off, 0x28 ≤ off → readOffset off s = 0#32

/-- 10_state.md R22, R23 and R26, 60_exceptions.md R181 and R182: the fields of STATUS, as the numbers of the tables, and
of POS. -/
def Obligations.StatusAndPosFields : Prop :=
  ∀ s : State,
    (s.pstate, (statusWord s).extractLsb' 0 4) ∈ pstateCodes ∧ (s.fmt, (statusWord s).extractLsb' 4 2) ∈ fmtCodes ∧
    (statusWord s).getLsbD 6 = s.filled ∧ (statusWord s).getLsbD 7 = false ∧
    (s.perr, (statusWord s).extractLsb' 8 4) ∈ perrCodes ∧ (s.cerr, (statusWord s).extractLsb' 12 3) ∈ cerrCodes ∧
    (statusWord s).extractLsb' 15 17 = 0#17 ∧
    (posWord s).extractLsb' 24 8 = s.row ∧ (posWord s).extractLsb' 0 24 = s.col

/-- 60_exceptions.md R188: no command stops the machine, whatever the word and the state. -/
def Obligations.CommandsNeverStop : Prop :=
  (∀ (i : Instr) (s : State), ∃ t, exec i s = .next t) ∧ ∀ (w : Word) (s : State), ∃ t, command w s = .next t

/-! ## Control commands -/

/-- 40_control.md R100. -/
def Obligations.NopChangesNothing : Prop :=
  ∀ s : State, exec .nop s = .next s ∧ command 0x00000000#32 s = .next s ∧
    ∀ w : Word, w.extractLsb' 24 8 = 0x00#8 → w.extractLsb' 0 24 ≠ 0#24 →
      command w s = .next (afterCmdError .reservedNonzero s)

/-- 40_control.md R101: SRESET gives the reset state in every state; a malformed SRESET does not reset. The lists
of accesses and replies, the model's own, are kept (log 3). -/
def Obligations.SresetGivesResetState : Prop :=
  ∀ s : State, (∃ t, exec .sreset s = .next t ∧ command 0x01000000#32 s = .next t ∧ BlockReset t ∧ SameOutside s t) ∧
    ∀ w : Word, w.extractLsb' 24 8 = 0x01#8 → w.extractLsb' 0 24 ≠ 0#24 →
      command w s = .next (afterCmdError .reservedNonzero s)

/-- 70_reset_and_hazards.md R201: the reset input has the effect of SRESET. The event list is the model's own (log 3). -/
def Obligations.HardResetIsSreset : Prop :=
  ∀ (s : State) (rest : List HostEvent), s.pending = .hardReset :: rest →
    step s = exec .sreset { s with pending := rest }

/-- 70_reset_and_hazards.md R200: the reset state, at power-up, by the reset input and by SRESET, for every value of the
parameters. -/
def Obligations.ResetStateValues : Prop :=
  (∀ maxColumns bcxBase : Nat, BlockReset (State.resetWith maxColumns bcxBase)) ∧
  ∀ s t : State, perform .hardReset s = .next t ∨ exec .sreset s = .next t → BlockReset t

/-- 40_control.md R102: JOB_START in every state; a malformed one starts nothing. -/
def Obligations.JobStartBeginsABitmap : Prop :=
  ∀ s : State,
    (∃ t, exec .jobStart s = .next t ∧ command 0x02000000#32 s = .next t ∧
      t.pstate = .magicP ∧ t.fmt = .none ∧ t.filled = false ∧ t.perr = .none ∧ t.cerr = .none ∧
      t.width = 0#21 ∧ t.height = 0#8 ∧ t.acc = 0#21 ∧ t.row = 0#8 ∧ t.col = 0#24 ∧
      (∀ a, t.buf.read a = 0#8) ∧ SameEncoder s t ∧ SameOutside s t) ∧
    ∀ w : Word, w.extractLsb' 24 8 = 0x02#8 → w.extractLsb' 0 24 ≠ 0#24 →
      command w s = .next (afterCmdError .reservedNonzero s)

/-! ## The extractor -/

/-- 41_extractor.md R135: a byte in FULL or ERROR is ignored, in IDLE or ENDED it raises SEQUENCE. -/
def Obligations.FeedInClosedStates : Prop :=
  ∀ (s : State) (b : Byte),
    (s.pstate = .full ∨ s.pstate = .error → exec (.feed b) s = .next s) ∧
    (s.pstate = .idle ∨ s.pstate = .ended → exec (.feed b) s = .next (afterCmdError .sequence s))

/-- 41_extractor.md R121 and R122: the two magic bytes. -/
def Obligations.FeedMagicBytes : Prop :=
  ∀ (s : State) (b : Byte),
    (s.pstate = .magicP → exec (.feed b) s = .next
      (if b = 0x50#8 then { s with pstate := .magicT } else { s with pstate := .error, perr := .badMagic })) ∧
    (s.pstate = .magicT → exec (.feed b) s = .next
      (if b = 0x31#8 then { s with fmt := .ascii, pstate := .sep0 }
       else if b = 0x34#8 then { s with fmt := .binary, pstate := .sep0 }
       else { s with pstate := .error, perr := .unsupportedType }))

/-- 41_extractor.md R123: the separator after the type token. -/
def Obligations.FeedSeparator : Prop :=
  ∀ (s : State) (b : Byte), s.pstate = .sep0 → exec (.feed b) s = .next
    (if b ∈ wsBytes then { s with pstate := .wsW }
     else if b = 0x23#8 then { s with pstate := .commentW }
     else { s with pstate := .error, perr := .noSeparator })

/-- 41_extractor.md R124: the whitespace before each dimension, and its first digit. -/
def Obligations.FeedBeforeDimension : Prop :=
  ∀ (s : State) (b : Byte),
    (s.pstate = .wsW →
      (b ∈ wsBytes → exec (.feed b) s = .next s) ∧
      (b = 0x23#8 → exec (.feed b) s = .next { s with pstate := .commentW }) ∧
      (IsDigitByte b → exec (.feed b) s = .next
        (if b.toNat - 0x30 > s.maxColumns then { s with acc := 0#21, pstate := .error, perr := .widthTooLarge }
         else { s with acc := BitVec.ofNat 21 (b.toNat - 0x30), pstate := .digW })) ∧
      (b ∉ wsBytes → b ≠ 0x23#8 → ¬ IsDigitByte b →
        exec (.feed b) s = .next { s with pstate := .error, perr := .badHeaderChar })) ∧
    (s.pstate = .wsH →
      (b ∈ wsBytes → exec (.feed b) s = .next s) ∧
      (b = 0x23#8 → exec (.feed b) s = .next { s with pstate := .commentH }) ∧
      (IsDigitByte b → exec (.feed b) s = .next
        { s with acc := BitVec.ofNat 21 (b.toNat - 0x30), pstate := .digH }) ∧
      (b ∉ wsBytes → b ≠ 0x23#8 → ¬ IsDigitByte b →
        exec (.feed b) s = .next { s with pstate := .error, perr := .badHeaderChar }))

/-- 41_extractor.md R125, with AccDigit and EndWidth: inside the width token, for every legal MAX_COLUMNS. -/
def Obligations.FeedInsideWidth : Prop :=
  ∀ (s : State) (b : Byte), s.pstate = .digW → s.maxColumns ≤ 2 ^ 20 →
    (IsDigitByte b → s.acc.toNat * 10 + (b.toNat - 0x30) > s.maxColumns →
      exec (.feed b) s = .next { s with pstate := .error, perr := .widthTooLarge }) ∧
    (IsDigitByte b → s.acc.toNat * 10 + (b.toNat - 0x30) ≤ s.maxColumns →
      ∃ a : BitVec 21, a.toNat = s.acc.toNat * 10 + (b.toNat - 0x30) ∧ exec (.feed b) s = .next { s with acc := a }) ∧
    (b ∈ wsBytes ∨ b = 0x23#8 → s.acc = 0#21 →
      exec (.feed b) s = .next { s with pstate := .error, perr := .zeroDimension }) ∧
    (b ∈ wsBytes → s.acc ≠ 0#21 →
      exec (.feed b) s = .next { s with width := s.acc, acc := 0#21, pstate := .wsH }) ∧
    (b = 0x23#8 → s.acc ≠ 0#21 →
      exec (.feed b) s = .next { s with width := s.acc, acc := 0#21, pstate := .commentH }) ∧
    (b ∉ wsBytes → b ≠ 0x23#8 → ¬ IsDigitByte b →
      exec (.feed b) s = .next { s with pstate := .error, perr := .badHeaderChar })

/-- 41_extractor.md R126, with AccDigit and EndHeight: inside the height token. The premise on ACC is part of ScannerOk. -/
def Obligations.FeedInsideHeight : Prop :=
  ∀ (s : State) (b : Byte), s.pstate = .digH → s.acc.toNat ≤ 128 →
    (IsDigitByte b → s.acc.toNat * 10 + (b.toNat - 0x30) > 128 →
      exec (.feed b) s = .next { s with pstate := .error, perr := .heightTooLarge }) ∧
    (IsDigitByte b → s.acc.toNat * 10 + (b.toNat - 0x30) ≤ 128 →
      ∃ a : BitVec 21, a.toNat = s.acc.toNat * 10 + (b.toNat - 0x30) ∧ exec (.feed b) s = .next { s with acc := a }) ∧
    (b ∈ wsBytes ∨ b = 0x23#8 → s.acc = 0#21 →
      exec (.feed b) s = .next { s with pstate := .error, perr := .zeroDimension }) ∧
    (b ∈ wsBytes ∨ b = 0x23#8 → s.acc ≠ 0#21 →
      ∃ h : BitVec 8, h.toNat = s.acc.toNat ∧ exec (.feed b) s = .next
        { s with height := h, acc := 0#21, row := 0#8, col := 0#24,
                 pstate := if b = 0x23#8 then .commentP else .pix }) ∧
    (b ∉ wsBytes → b ≠ 0x23#8 → ¬ IsDigitByte b →
      exec (.feed b) s = .next { s with pstate := .error, perr := .badHeaderChar })

/-- 41_extractor.md R129: the three comment states. -/
def Obligations.FeedInsideComment : Prop :=
  ∀ (s : State) (b : Byte) (p q : PState),
    (p, q) ∈ [(PState.commentW, PState.wsW), (.commentH, .wsH), (.commentP, .pix)] → s.pstate = p →
    exec (.feed b) s = .next (if b ∈ eolBytes then { s with pstate := q } else s)

/-- 41_extractor.md R131, with SetPixel and CheckFull: an ASCII pixel byte. The premises are parts of Inv. -/
def Obligations.FeedAsciiPixel : Prop :=
  ∀ (s : State) (b : Byte), s.pstate = .pix → s.fmt = .ascii → s.buf.wf = true →
    s.row.toNat < s.height.toNat → s.height.toNat ≤ 128 → s.col.toNat < s.width.toNat →
    s.width.toNat ≤ s.maxColumns →
    (b ≠ 0x30#8 → b ≠ 0x31#8 → exec (.feed b) s = .next s) ∧
    (b = 0x30#8 ∨ b = 0x31#8 → ∃ t, exec (.feed b) s = .next t ∧
      pixel t s.row.toNat s.col.toNat = decide (b = 0x31#8) ∧
      (∀ r c, r < 128 → ¬ (r = s.row.toNat ∧ c = s.col.toNat) → pixel t r c = pixel s r c) ∧
      (s.col.toNat + 1 < s.width.toNat →
        t.col.toNat = s.col.toNat + 1 ∧ t.row = s.row ∧ t.pstate = .pix ∧ t.filled = s.filled) ∧
      (s.col.toNat + 1 = s.width.toNat → t.col = 0#24 ∧ t.row.toNat = s.row.toNat + 1 ∧
        (s.row.toNat + 1 < s.height.toNat → t.pstate = .pix ∧ t.filled = s.filled) ∧
        (s.row.toNat + 1 = s.height.toNat → t.pstate = .full ∧ t.filled = true)) ∧
      t.fmt = s.fmt ∧ t.width = s.width ∧ t.height = s.height ∧ t.acc = s.acc ∧ t.perr = s.perr ∧ t.cerr = s.cerr ∧
      SameEncoder s t ∧ SameOutside s t)

/-- 41_extractor.md R132, with SetPixel and CheckFull: a byte of binary pixels. The premises are parts of Inv. -/
def Obligations.FeedBinaryPixels : Prop :=
  ∀ (s : State) (b : Byte), s.pstate = .pix → s.fmt = .binary → s.buf.wf = true →
    s.row.toNat < s.height.toNat → s.height.toNat ≤ 128 → s.col.toNat < s.width.toNat →
    s.width.toNat ≤ s.maxColumns →
    ∃ t, exec (.feed b) s = .next t ∧
      (∀ k, k < 8 → s.col.toNat + k < s.width.toNat →
        pixel t s.row.toNat (s.col.toNat + k) = b.getLsbD (7 - k)) ∧
      (∀ r c, r < 128 →
        ¬ (r = s.row.toNat ∧ s.col.toNat ≤ c ∧ c < s.col.toNat + 8 ∧ c < s.width.toNat) →
        pixel t r c = pixel s r c) ∧
      (s.col.toNat + 8 < s.width.toNat →
        t.col.toNat = s.col.toNat + 8 ∧ t.row = s.row ∧ t.pstate = .pix ∧ t.filled = s.filled) ∧
      (s.width.toNat ≤ s.col.toNat + 8 → t.col = 0#24 ∧ t.row.toNat = s.row.toNat + 1 ∧
        (s.row.toNat + 1 < s.height.toNat → t.pstate = .pix ∧ t.filled = s.filled) ∧
        (s.row.toNat + 1 = s.height.toNat → t.pstate = .full ∧ t.filled = true)) ∧
      t.fmt = s.fmt ∧ t.width = s.width ∧ t.height = s.height ∧ t.acc = s.acc ∧ t.perr = s.perr ∧ t.cerr = s.cerr ∧
      SameEncoder s t ∧ SameOutside s t

/-- 41_extractor.md R136, ScanEnd(), and R111 in IDLE and ENDED. The height is the whole of ACC where ACC is at most its
limit of 128, a part of ScannerOk. -/
def Obligations.FeedEndByState : Prop :=
  ∀ s : State,
    (s.pstate = .idle ∨ s.pstate = .ended → exec .feedEnd s = .next (afterCmdError .sequence s)) ∧
    (s.pstate = .pix ∨ s.pstate = .full ∨ s.pstate = .commentP → exec .feedEnd s = .next { s with pstate := .ended }) ∧
    (s.pstate = .digH → s.acc = 0#21 →
      exec .feedEnd s = .next { s with pstate := .error, perr := .zeroDimension }) ∧
    (s.pstate = .digH → s.acc ≠ 0#21 → s.acc.toNat ≤ 128 → ∃ h : BitVec 8, h.toNat = s.acc.toNat ∧
      exec .feedEnd s = .next { s with height := h, acc := 0#21, row := 0#8, col := 0#24, pstate := .ended }) ∧
    (s.pstate = .error → exec .feedEnd s = .next s) ∧
    (s.pstate = .magicP ∨ s.pstate = .magicT ∨ s.pstate = .sep0 ∨ s.pstate = .wsW ∨ s.pstate = .digW ∨ s.pstate = .wsH ∨
        s.pstate = .commentW ∨ s.pstate = .commentH →
      exec .feedEnd s = .next { s with pstate := .error, perr := .eosInHeader })

/-- 41_extractor.md R112: BUFRD in every scanner state, its word, its range error, and the columns past the width. -/
def Obligations.BufrdReadsTheBuffer : Prop :=
  ∀ (s : State) (c : BitVec 20) (k : BitVec 4),
    decode (0x05#8 ++ k ++ c) = .cmd (.bufrd c k) ∧
    (c.toNat < s.maxColumns → exec (.bufrd c k) s = .next { s with rdata := bufRead s c.toNat k.toNat }) ∧
    (s.maxColumns ≤ c.toNat → exec (.bufrd c k) s = .next (afterCmdError .operandRange s)) ∧
    (OutsideWhite s → s.width.toNat ≤ c.toNat → bufRead s c.toNat k.toNat = 0#8)

/-- The frame of FEED and FEED_END: a byte fed or the end of the stream writes only the scanner's registers and variables
and, in PIX, the bytes of BUF that hold the pixel or the eight pixels it names (R131, R132, R134); CERR only by SEQUENCE. -/
def Obligations.FeedFrame : Prop :=
  (∀ (s t : State) (b : Byte), exec (.feed b) s = .next t →
    SameEncoder s t ∧ SameOutside s t ∧
    (t.cerr = s.cerr ∨ (s.pstate = .idle ∨ s.pstate = .ended) ∧ s.cerr = .none ∧ t.cerr = .sequence) ∧
    (s.pstate ≠ .pix → t.buf = s.buf) ∧
    (s.fmt = .ascii → ∀ a, a ≠ bufAddr s.col.toNat (s.row.toNat / 8) → t.buf.read a = s.buf.read a) ∧
    ∀ a, (∀ k, k < 8 → s.col.toNat + k < s.width.toNat → a ≠ bufAddr (s.col.toNat + k) (s.row.toNat / 8)) →
      t.buf.read a = s.buf.read a) ∧
  ∀ s t : State, exec .feedEnd s = .next t →
    SameEncoder s t ∧ SameOutside s t ∧ t.buf = s.buf ∧ t.fmt = s.fmt ∧ t.filled = s.filled ∧ t.width = s.width ∧
    (t.cerr = s.cerr ∨ (s.pstate = .idle ∨ s.pstate = .ended) ∧ s.cerr = .none ∧ t.cerr = .sequence)

/-- 60_exceptions.md R186 and R188: a FEED or FEED_END that raises a FormatError leaves everything but PSTATE and PERR. -/
def Obligations.FormatErrorKeepsTheRest : Prop :=
  ∀ (s t : State) (i : Instr), ScannerOk s → i.UsesStream → exec i s = .next t → s.pstate ≠ .error → t.pstate = .error →
    t.perr ≠ .none ∧ t = { s with pstate := .error, perr := t.perr }

/-! ## The encoder -/

/-- 42_encoder.md R150: LOADCOL in every scanner state, its word, its errors, and the columns past the width. -/
def Obligations.LoadcolCopiesTheColumn : Prop :=
  ∀ s : State,
    (∀ c : BitVec 20, decode (0x06#8 ++ 0#4 ++ c) = .cmd (.loadcol c) ∧
      (c.toNat < s.maxColumns → ∃ t, exec (.loadcol c) s = .next t ∧ t = { s with colreg := t.colreg } ∧
        (∀ k, (h : k < 16) → t.colreg[k] = bufRead s c.toNat k) ∧
        (OutsideWhite s → s.width.toNat ≤ c.toNat → t.colreg = Vector.replicate 16 0#8)) ∧
      (s.maxColumns ≤ c.toNat → exec (.loadcol c) s = .next (afterCmdError .operandRange s))) ∧
    ∀ w : Word, w.extractLsb' 24 8 = 0x06#8 → w.extractLsb' 20 4 ≠ 0#4 →
      command w s = .next (afterCmdError .reservedNonzero s)

/-- 42_encoder.md R151: SETCOL, its word, the one byte of COLREG it writes; a malformed SETCOL writes none. -/
def Obligations.SetcolWritesOneByte : Prop :=
  ∀ (s : State),
    (∀ (k : BitVec 4) (v : Byte), decode (0x07#8 ++ k ++ 0#12 ++ v) = .cmd (.setcol k v) ∧
      ∃ t, exec (.setcol k v) s = .next t ∧ t = { s with colreg := t.colreg } ∧
        ∀ j, (h : j < 16) → t.colreg[j] = if j = k.toNat then v else s.colreg[j]) ∧
    ∀ w : Word, w.extractLsb' 24 8 = 0x07#8 → w.extractLsb' 8 12 ≠ 0#12 →
      command w s = .next (afterCmdError .reservedNonzero s)

/-- 42_encoder.md R162 and R152: ENCODE writes OUT whole and OUTLEN, and nothing else. -/
def Obligations.EncodeWritesTheChunk : Prop :=
  ∀ s : State, ∃ t, exec .encode s = .next t ∧ t = { s with out := t.out, outlen := t.outlen } ∧
    t.outlen.toNat = (encodeChunk s.colreg).length ∧
    (∀ i, (h : i < 35) → t.out[i] =
      if h' : i < (encodeChunk s.colreg).length then (encodeChunk s.colreg)[i] else 0#8) ∧
    t.outlen.toNat = (if allZero s.colreg then 1 else 3 + (payload s.colreg).length)

/-- 42_encoder.md R153: OUTRD, its word, its errors, and the bytes past OUTLEN. -/
def Obligations.OutrdReadsOut : Prop :=
  ∀ s : State,
    (∀ i : BitVec 6, decode (0x09#8 ++ 0#18 ++ i) = .cmd (.outrd i) ∧
      (∀ h : i.toNat < 35, exec (.outrd i) s = .next { s with rdata := s.out[i.toNat] } ∧
        (OutOk s → s.outlen.toNat ≤ i.toNat → s.out[i.toNat] = 0#8)) ∧
      (35 ≤ i.toNat → exec (.outrd i) s = .next (afterCmdError .operandRange s))) ∧
    ∀ w : Word, w.extractLsb' 24 8 = 0x09#8 → w.extractLsb' 6 18 ≠ 0#18 →
      command w s = .next (afterCmdError .reservedNonzero s)

/-- 42_encoder.md R154: COLRD and its word; a malformed COLRD reads nothing. -/
def Obligations.ColrdReadsColreg : Prop :=
  ∀ s : State,
    (∀ k : BitVec 4, decode (0x0A#8 ++ k ++ 0#20) = .cmd (.colrd k) ∧
      exec (.colrd k) s = .next { s with rdata := s.colreg[k.toNat]'k.isLt }) ∧
    ∀ w : Word, w.extractLsb' 24 8 = 0x0A#8 → w.extractLsb' 0 20 ≠ 0#20 →
      command w s = .next (afterCmdError .reservedNonzero s)

/-- The frame of the commands that are not the scanner's: no scanner register or variable, no byte of BUF, no parameter;
RDATA only by the three reading commands, COLREG only by LOADCOL and SETCOL, OUT and OUTLEN only by ENCODE (R150 to
R154, 70_reset_and_hazards.md R206); CERR only by a range error. -/
def Obligations.EncoderCommandsFrame : Prop :=
  ∀ (s t : State) (i : Instr) (c : BitVec 20) (k : BitVec 4) (v : Byte) (n : BitVec 6),
    i ∈ [Instr.nop, .bufrd c k, .loadcol c, .setcol k v, .encode, .outrd n, .colrd k] → exec i s = .next t →
    SameScanner s t ∧ SameOutside s t ∧
    (t.rdata = s.rdata ∨ i = .bufrd c k ∨ i = .outrd n ∨ i = .colrd k) ∧
    (t.colreg = s.colreg ∨ i = .loadcol c ∨ i = .setcol k v) ∧
    (t.out = s.out ∧ t.outlen = s.outlen ∨ i = .encode) ∧
    (t.cerr = s.cerr ∨ i.WellFormed s.maxColumns = false ∧ s.cerr = .none ∧ t.cerr = .operandRange)

/-- 42_encoder.md R161, EncodeChunk(c). -/
def Obligations.ChunkForm : Prop :=
  ∀ x : Vector Byte 16,
    ((∀ k, (h : k < 16) → x[k] = 0#8) → encodeChunk x = [0x5A#8]) ∧
    (¬ (∀ k, (h : k < 16) → x[k] = 0#8) → ∃ lsb msb : Byte,
      encodeChunk x = [0x47#8, lsb, msb] ++ payload x ∧ lsb.toNat + 256 * msb.toNat = (payload x).length)

/-- The spec's decoding oracle inverts the encoder on every column: 42_encoder.md R165, "For every column c,
Decode(EncodeChunk(c)) = c", which the spec marks as derived from R160, R161, R163 and R164. -/
def Obligations.DecodeOfEncodedColumn : Prop :=
  ∀ x : Vector Byte 16, decodeChunk (encodeChunk x) = some x.toList

/-- The bounds of a payload and of a chunk, OUTLEN after ENCODE, EERR: 42_encoder.md R166, which the spec marks as derived
from R160 and R161. -/
def Obligations.ChunkBounds : Prop :=
  (∀ x : Vector Byte 16, ¬ (∀ k, (h : k < 16) → x[k] = 0#8) →
    2 ≤ (payload x).length ∧ (payload x).length ≤ 17 ∧
    5 ≤ (encodeChunk x).length ∧ (encodeChunk x).length ≤ 20 ∧ (encodeChunk x)[2]? = some 0x00#8) ∧
  (∀ s t : State, exec .encode s = .next t →
    t.outlen.toNat = 1 ∨ (5 ≤ t.outlen.toNat ∧ t.outlen.toNat ≤ 20)) ∧
  ∀ s : State, (statusWord s).getLsbD 7 = false

/-- 42_encoder.md R160, R163, R164 and R168 at every position: there is one list of payload bytes `rest i` from each position
i on, the whole payload from 0, none from 16. Where a run of r > 2 begins, `rest i` is (1 - r) mod 256, the byte and
`rest (i + r)`. Elsewhere it is n - 1, n bytes verbatim and `rest (i + n)`, where no run of more than 2 begins among those
n bytes, and the literal ends at the column's end or where such a run begins. -/
def Obligations.ThreeRepeatTwoLiteral : Prop :=
  ∀ x : Vector Byte 16, ∃ rest : Nat → List Byte, rest 0 = payload x ∧ rest 16 = [] ∧ ∀ i, (h : i < 16) →
    (∀ r, 2 < r → RunLenIs x i r → rest i = [BitVec.ofNat 8 (257 - r), x[i]] ++ rest (i + r)) ∧
    (¬ LongRunAt x i → ∃ n, 1 ≤ n ∧ i + n ≤ 16 ∧
      rest i = BitVec.ofNat 8 (n - 1) :: (x.toList.drop i).take n ++ rest (i + n) ∧
      (∀ t, t < n → ¬ LongRunAt x (i + t)) ∧ (i + n = 16 ∨ LongRunAt x (i + n)))

/-! ## Errors -/

/-- 60_exceptions.md R185: CERR keeps its first code until the reset input, SRESET or JOB_START clears it. -/
def Obligations.FirstCmdErrorIsKept : Prop :=
  ∀ s t : State, step s = .next t → s.cerr ≠ .none → t.cerr = s.cerr ∨ (RestartsNext s ∧ t.cerr = .none)

/-- 60_exceptions.md R185 and 10_state.md R25: CERR blocks nothing. The same command does the same whatever CERR holds. -/
def Obligations.CerrBlocksNothing : Prop :=
  ∀ (i : Instr) (s : State) (e : CmdCode), ∃ t u, exec i s = .next t ∧ exec i { s with cerr := e } = .next u ∧
    { u with cerr := .none } = { t with cerr := .none }

/-- 60_exceptions.md R186: only JOB_START, SRESET or hardware reset leave ERROR, and until then PERR, the dimensions and
BUF are kept. -/
def Obligations.ErrorLeftOnlyByRestart : Prop :=
  ∀ s t : State, step s = .next t → s.pstate = .error → RestartsNext s ∨ SameScanner s t

/-- 10_state.md R22: FILLED is kept until JOB_START or reset, and while it is set no byte of BUF changes (R133). -/
def Obligations.FilledIsSticky : Prop :=
  ∀ s t : State, ScannerOk s → step s = .next t → s.filled = true →
    RestartsNext s ∨ (t.filled = true ∧ t.buf = s.buf)

/-! ## Invariants -/

/-- R200 with R9 and R53: the reset state meets the invariant, for every legal value of the two parameters. -/
def Obligations.ResetMeetsInvariant : Prop :=
  ∀ maxColumns bcxBase : Nat, 1 ≤ maxColumns → maxColumns ≤ 2 ^ 20 → bcxBase % 256 = 0 →
    Inv (State.resetWith maxColumns bcxBase)

/-- 00_scope.md R9, 20_memory.md R53: no step changes a parameter. -/
def Obligations.StepKeepsParameters : Prop :=
  ∀ s t : State, step s = .next t → t.maxColumns = s.maxColumns ∧ t.bcxBase = s.bcxBase

/-- Every step keeps BUF in canonical form and inside its bounds (10_state.md R28). Where ScannerOk holds, that no write
leaves BUF is 41_extractor.md R134. In a state with a width above MAX_COLUMNS, which no run reaches, it is the model's choice:
there `bufWrite` drops the write (log 7). -/
def Obligations.StepKeepsBuffer : Prop := ∀ s t : State, BufOk s → step s = .next t → BufOk t

/-- 10_state.md R22, R23, R26, R27: every step keeps the scanner's invariant. -/
def Obligations.StepKeepsScanner : Prop :=
  ∀ s t : State, ParamsOk s → ScannerOk s → step s = .next t → ScannerOk t

/-- 10_state.md R29 and 41_extractor.md R137: every pixel outside the declared dimensions stays white. -/
def Obligations.StepKeepsOutsideWhite : Prop :=
  ∀ s t : State, ParamsOk s → BufOk s → ScannerOk s → OutsideWhite s → step s = .next t → OutsideWhite t

/-- 10_state.md R28, R31 and 42_encoder.md R162, R166: OUT past OUTLEN is always 0, and OUTLEN always legal. -/
def Obligations.StepKeepsOutput : Prop := ∀ s t : State, OutOk s → step s = .next t → OutOk t

/-! ## Assembly -/

/-- 30_encoding.md R78: a line's operands are exactly the command's fields, never truncated; every command can be written. -/
def Obligations.AssemblyNeverTruncates : Prop :=
  (∀ (m : Mnemonic) (operands : List Nat) (i : Instr), assembleCommand m operands = some i →
    mnemonicOfInstr i = m ∧ i.numbers = operands) ∧
  ∀ i : Instr, assembleCommand (mnemonicOfInstr i) i.numbers = some i

/-- 30_encoding.md R79: the expansions of the pseudo-commands. That FEEDB has an operand is the reading of log 8. -/
def Obligations.PseudoCommandsExpand : Prop :=
  (∀ bs : List Byte, (AsmLine.feeds bs).expand = some (bs.map fun b => .issue (.feed b))) ∧
  (∀ bs : List Byte, bs ≠ [] →
    (AsmLine.feedb (bs.map BitVec.toNat)).expand = some (bs.map fun b => .issue (.feed b))) ∧
  (∀ c : BitVec 20, (AsmLine.enccol c.toNat).expand = some [.issue (.loadcol c), .issue .encode]) ∧
  (∀ vs : Vector Byte 16, (AsmLine.setcols (vs.toList.map BitVec.toNat)).expand =
    some ((List.finRange 16).map fun k => .issue (.setcol (BitVec.ofFin k) vs[k]))) ∧
  (∀ n, n ≤ 64 → (AsmLine.getout n).expand =
    some ((List.range n).flatMap fun i => [.issue (.outrd (BitVec.ofNat 6 i)), .read .rdata])) ∧
  ∀ c : BitVec 20, (AsmLine.getcol c.toNat).expand =
    some ((List.range 16).flatMap fun k => [.issue (.bufrd c (BitVec.ofNat 4 k)), .read .rdata])
end

