-- ==== Sys2Proof/Laws/Memory.lean ====
section
/-! SUPPORT. The laws of a memory in canonical form: read after write, and that a write keeps the form. -/

namespace Sys2Proof.Machine

theorem Memory.wfFrom_weaken {m : Memory} {lo lo' : Nat} (h : lo' ≤ lo) (hm : Memory.wfFrom lo m = true) :
    Memory.wfFrom lo' m = true := by
  cases m with
  | nil => rfl
  | cons cell m =>
    simp only [Memory.wfFrom, Bool.and_eq_true, decide_eq_true_eq] at hm ⊢
    exact ⟨⟨h.trans hm.1.1, hm.1.2⟩, hm.2⟩

/-- An address below a canonical memory is not listed. -/
theorem Memory.read_of_wfFrom {m : Memory} {lo a : Nat} (hm : Memory.wfFrom lo m = true) (ha : a < lo) :
    m.read a = 0#8 := by
  induction m generalizing lo with
  | nil => rfl
  | cons cell m ih =>
    simp only [Memory.wfFrom, Bool.and_eq_true, decide_eq_true_eq] at hm
    have hne : cell.1 ≠ a := by omega
    simp only [Memory.read, if_neg hne]
    exact ih hm.2 (by omega)

theorem Memory.read_put_other {m : Memory} {a b : Nat} (v : Byte) (h : b ≠ a) : (Memory.put a v m).read b = m.read b := by
  unfold Memory.put
  split
  · rfl
  · simp [Memory.read, Ne.symm h]

theorem Memory.read_put_same {m : Memory} {a : Nat} (v : Byte) (h : m.read a = 0#8) : (Memory.put a v m).read a = v := by
  unfold Memory.put
  split
  · simp_all
  · simp [Memory.read]

/-- A write leaves every other byte alone, in any memory. -/
theorem Memory.read_write_other (m : Memory) {a b : Nat} (v : Byte) (h : b ≠ a) : (m.write a v).read b = m.read b := by
  induction m with
  | nil => exact Memory.read_put_other v h
  | cons cell m ih =>
    simp only [Memory.write]
    split
    · exact Memory.read_put_other v h
    · split
      · rename_i heq
        rw [Memory.read_put_other v h]
        simp [Memory.read, ← heq, Ne.symm h]
      · simp only [Memory.read, ih]

/-- A byte written to a canonical memory is read back. -/
theorem Memory.read_write_same {m : Memory} (hm : m.wf = true) (a : Nat) (v : Byte) : (m.write a v).read a = v := by
  unfold Memory.wf at hm
  generalize 0 = lo at hm
  induction m generalizing lo with
  | nil => exact Memory.read_put_same v rfl
  | cons cell m ih =>
    simp only [Memory.wfFrom, Bool.and_eq_true, decide_eq_true_eq] at hm
    simp only [Memory.write]
    split
    · rename_i hlt
      refine Memory.read_put_same v ?_
      have hne : cell.1 ≠ a := by omega
      simp only [Memory.read, if_neg hne]
      exact Memory.read_of_wfFrom hm.2 (by omega)
    · split
      · rename_i heq
        exact Memory.read_put_same v (Memory.read_of_wfFrom hm.2 (by omega))
      · rename_i hne
        simp only [Memory.read, if_neg (Ne.symm hne)]
        exact ih _ hm.2

theorem Memory.wfFrom_put {m : Memory} {lo a : Nat} (v : Byte) (ha : lo ≤ a) (hm : Memory.wfFrom (a + 1) m = true) :
    Memory.wfFrom lo (Memory.put a v m) = true := by
  unfold Memory.put
  split
  · exact Memory.wfFrom_weaken (by omega) hm
  · simp_all [Memory.wfFrom]

theorem Memory.wfFrom_write {m : Memory} {lo a : Nat} (v : Byte) (ha : lo ≤ a) (hm : Memory.wfFrom lo m = true) :
    Memory.wfFrom lo (m.write a v) = true := by
  induction m generalizing lo with
  | nil => exact Memory.wfFrom_put v ha rfl
  | cons cell m ih =>
    have hm' := hm
    simp only [Memory.wfFrom, Bool.and_eq_true, decide_eq_true_eq] at hm
    simp only [Memory.write]
    split
    · refine Memory.wfFrom_put v ha ?_
      simp only [Memory.wfFrom, Bool.and_eq_true, decide_eq_true_eq]
      exact ⟨⟨by omega, hm.1.2⟩, hm.2⟩
    · split
      · rename_i heq
        exact Memory.wfFrom_put v ha (by rw [heq]; exact hm.2)
      · simp only [Memory.wfFrom, Bool.and_eq_true, decide_eq_true_eq]
        exact ⟨hm.1, ih (by omega) hm.2⟩

/-- Every write keeps the canonical form. -/
theorem Memory.wf_write {m : Memory} (hm : m.wf = true) (a : Nat) (v : Byte) : (m.write a v).wf = true :=
  Memory.wfFrom_write v (Nat.zero_le a) hm

/-- The memory at reset is canonical. -/
theorem Memory.wf_reset (maxColumns bcxBase : Nat) : (State.resetWith maxColumns bcxBase).buf.wf = true := rfl

theorem Memory.mem_put {m : Memory} {a : Nat} {v : Byte} {cell : Host.Cell} (h : cell ∈ Memory.put a v m) :
    cell = (a, v) ∨ cell ∈ m := by
  unfold Memory.put at h
  split at h
  · exact .inr h
  · simpa using h

/-- A cell of a written memory is the one written or was there before. -/
theorem Memory.mem_write {m : Memory} {a : Nat} {v : Byte} {cell : Host.Cell} (h : cell ∈ m.write a v) :
    cell = (a, v) ∨ cell ∈ m := by
  induction m with
  | nil => exact Memory.mem_put h
  | cons x m ih =>
    simp only [Memory.write] at h
    split at h
    · exact Memory.mem_put h
    · split at h
      · exact (Memory.mem_put h).imp id (List.mem_cons_of_mem _)
      · rcases List.mem_cons.mp h with h | h
        · exact .inr (h ▸ List.mem_cons_self)
        · exact (ih h).imp id (List.mem_cons_of_mem _)

end Sys2Proof.Machine
end

