-- ==== Sys2Proof/Laws/State.lean ====
section
/-! SUPPORT. What each named update of the state leaves in each field, so that no later proof unfolds one. -/

namespace Sys2Proof.Machine

/-! `raiseCmdError` (60_exceptions.md R185). -/

@[simp] theorem raiseCmdError_pstate (e : CmdCode) (s : State) : (raiseCmdError e s).pstate = s.pstate := by
  unfold raiseCmdError; split <;> rfl
@[simp] theorem raiseCmdError_fmt (e : CmdCode) (s : State) : (raiseCmdError e s).fmt = s.fmt := by
  unfold raiseCmdError; split <;> rfl
@[simp] theorem raiseCmdError_filled (e : CmdCode) (s : State) : (raiseCmdError e s).filled = s.filled := by
  unfold raiseCmdError; split <;> rfl
@[simp] theorem raiseCmdError_perr (e : CmdCode) (s : State) : (raiseCmdError e s).perr = s.perr := by
  unfold raiseCmdError; split <;> rfl
@[simp] theorem raiseCmdError_cerr (e : CmdCode) (s : State) :
    (raiseCmdError e s).cerr = if s.cerr = .none then e else s.cerr := by
  unfold raiseCmdError; split <;> rfl
@[simp] theorem raiseCmdError_width (e : CmdCode) (s : State) : (raiseCmdError e s).width = s.width := by
  unfold raiseCmdError; split <;> rfl
@[simp] theorem raiseCmdError_height (e : CmdCode) (s : State) : (raiseCmdError e s).height = s.height := by
  unfold raiseCmdError; split <;> rfl
@[simp] theorem raiseCmdError_acc (e : CmdCode) (s : State) : (raiseCmdError e s).acc = s.acc := by
  unfold raiseCmdError; split <;> rfl
@[simp] theorem raiseCmdError_row (e : CmdCode) (s : State) : (raiseCmdError e s).row = s.row := by
  unfold raiseCmdError; split <;> rfl
@[simp] theorem raiseCmdError_col (e : CmdCode) (s : State) : (raiseCmdError e s).col = s.col := by
  unfold raiseCmdError; split <;> rfl
@[simp] theorem raiseCmdError_rdata (e : CmdCode) (s : State) : (raiseCmdError e s).rdata = s.rdata := by
  unfold raiseCmdError; split <;> rfl
@[simp] theorem raiseCmdError_outlen (e : CmdCode) (s : State) : (raiseCmdError e s).outlen = s.outlen := by
  unfold raiseCmdError; split <;> rfl
@[simp] theorem raiseCmdError_buf (e : CmdCode) (s : State) : (raiseCmdError e s).buf = s.buf := by
  unfold raiseCmdError; split <;> rfl
@[simp] theorem raiseCmdError_colreg (e : CmdCode) (s : State) : (raiseCmdError e s).colreg = s.colreg := by
  unfold raiseCmdError; split <;> rfl
@[simp] theorem raiseCmdError_out (e : CmdCode) (s : State) : (raiseCmdError e s).out = s.out := by
  unfold raiseCmdError; split <;> rfl
@[simp] theorem raiseCmdError_maxColumns (e : CmdCode) (s : State) : (raiseCmdError e s).maxColumns = s.maxColumns := by
  unfold raiseCmdError; split <;> rfl
@[simp] theorem raiseCmdError_bcxBase (e : CmdCode) (s : State) : (raiseCmdError e s).bcxBase = s.bcxBase := by
  unfold raiseCmdError; split <;> rfl
@[simp] theorem raiseCmdError_pending (e : CmdCode) (s : State) : (raiseCmdError e s).pending = s.pending := by
  unfold raiseCmdError; split <;> rfl
@[simp] theorem raiseCmdError_replies (e : CmdCode) (s : State) : (raiseCmdError e s).replies = s.replies := by
  unfold raiseCmdError; split <;> rfl

/-! `raiseFormatError` (R186). -/

@[simp] theorem raiseFormatError_pstate (e : FormatCode) (s : State) : (raiseFormatError e s).pstate = .error := rfl
@[simp] theorem raiseFormatError_fmt (e : FormatCode) (s : State) : (raiseFormatError e s).fmt = s.fmt := rfl
@[simp] theorem raiseFormatError_filled (e : FormatCode) (s : State) : (raiseFormatError e s).filled = s.filled := rfl
@[simp] theorem raiseFormatError_perr (e : FormatCode) (s : State) : (raiseFormatError e s).perr = e := rfl
@[simp] theorem raiseFormatError_cerr (e : FormatCode) (s : State) : (raiseFormatError e s).cerr = s.cerr := rfl
@[simp] theorem raiseFormatError_width (e : FormatCode) (s : State) : (raiseFormatError e s).width = s.width := rfl
@[simp] theorem raiseFormatError_height (e : FormatCode) (s : State) : (raiseFormatError e s).height = s.height := rfl
@[simp] theorem raiseFormatError_acc (e : FormatCode) (s : State) : (raiseFormatError e s).acc = s.acc := rfl
@[simp] theorem raiseFormatError_row (e : FormatCode) (s : State) : (raiseFormatError e s).row = s.row := rfl
@[simp] theorem raiseFormatError_col (e : FormatCode) (s : State) : (raiseFormatError e s).col = s.col := rfl
@[simp] theorem raiseFormatError_rdata (e : FormatCode) (s : State) : (raiseFormatError e s).rdata = s.rdata := rfl
@[simp] theorem raiseFormatError_outlen (e : FormatCode) (s : State) : (raiseFormatError e s).outlen = s.outlen := rfl
@[simp] theorem raiseFormatError_buf (e : FormatCode) (s : State) : (raiseFormatError e s).buf = s.buf := rfl
@[simp] theorem raiseFormatError_colreg (e : FormatCode) (s : State) : (raiseFormatError e s).colreg = s.colreg := rfl
@[simp] theorem raiseFormatError_out (e : FormatCode) (s : State) : (raiseFormatError e s).out = s.out := rfl
@[simp] theorem raiseFormatError_maxColumns (e : FormatCode) (s : State) : (raiseFormatError e s).maxColumns = s.maxColumns := rfl
@[simp] theorem raiseFormatError_bcxBase (e : FormatCode) (s : State) : (raiseFormatError e s).bcxBase = s.bcxBase := rfl
@[simp] theorem raiseFormatError_pending (e : FormatCode) (s : State) : (raiseFormatError e s).pending = s.pending := rfl
@[simp] theorem raiseFormatError_replies (e : FormatCode) (s : State) : (raiseFormatError e s).replies = s.replies := rfl

/-! `withPending` (20_memory.md R56). -/

@[simp] theorem withPending_pstate (rest : List HostEvent) (s : State) : (withPending rest s).pstate = s.pstate := rfl
@[simp] theorem withPending_fmt (rest : List HostEvent) (s : State) : (withPending rest s).fmt = s.fmt := rfl
@[simp] theorem withPending_filled (rest : List HostEvent) (s : State) : (withPending rest s).filled = s.filled := rfl
@[simp] theorem withPending_perr (rest : List HostEvent) (s : State) : (withPending rest s).perr = s.perr := rfl
@[simp] theorem withPending_cerr (rest : List HostEvent) (s : State) : (withPending rest s).cerr = s.cerr := rfl
@[simp] theorem withPending_width (rest : List HostEvent) (s : State) : (withPending rest s).width = s.width := rfl
@[simp] theorem withPending_height (rest : List HostEvent) (s : State) : (withPending rest s).height = s.height := rfl
@[simp] theorem withPending_acc (rest : List HostEvent) (s : State) : (withPending rest s).acc = s.acc := rfl
@[simp] theorem withPending_row (rest : List HostEvent) (s : State) : (withPending rest s).row = s.row := rfl
@[simp] theorem withPending_col (rest : List HostEvent) (s : State) : (withPending rest s).col = s.col := rfl
@[simp] theorem withPending_rdata (rest : List HostEvent) (s : State) : (withPending rest s).rdata = s.rdata := rfl
@[simp] theorem withPending_outlen (rest : List HostEvent) (s : State) : (withPending rest s).outlen = s.outlen := rfl
@[simp] theorem withPending_buf (rest : List HostEvent) (s : State) : (withPending rest s).buf = s.buf := rfl
@[simp] theorem withPending_colreg (rest : List HostEvent) (s : State) : (withPending rest s).colreg = s.colreg := rfl
@[simp] theorem withPending_out (rest : List HostEvent) (s : State) : (withPending rest s).out = s.out := rfl
@[simp] theorem withPending_maxColumns (rest : List HostEvent) (s : State) : (withPending rest s).maxColumns = s.maxColumns := rfl
@[simp] theorem withPending_bcxBase (rest : List HostEvent) (s : State) : (withPending rest s).bcxBase = s.bcxBase := rfl
@[simp] theorem withPending_pending (rest : List HostEvent) (s : State) : (withPending rest s).pending = rest := rfl
@[simp] theorem withPending_replies (rest : List HostEvent) (s : State) : (withPending rest s).replies = s.replies := rfl

/-! `reply` (20_memory.md R52). -/

@[simp] theorem reply_pstate (v : Word) (s : State) : (reply v s).pstate = s.pstate := rfl
@[simp] theorem reply_fmt (v : Word) (s : State) : (reply v s).fmt = s.fmt := rfl
@[simp] theorem reply_filled (v : Word) (s : State) : (reply v s).filled = s.filled := rfl
@[simp] theorem reply_perr (v : Word) (s : State) : (reply v s).perr = s.perr := rfl
@[simp] theorem reply_cerr (v : Word) (s : State) : (reply v s).cerr = s.cerr := rfl
@[simp] theorem reply_width (v : Word) (s : State) : (reply v s).width = s.width := rfl
@[simp] theorem reply_height (v : Word) (s : State) : (reply v s).height = s.height := rfl
@[simp] theorem reply_acc (v : Word) (s : State) : (reply v s).acc = s.acc := rfl
@[simp] theorem reply_row (v : Word) (s : State) : (reply v s).row = s.row := rfl
@[simp] theorem reply_col (v : Word) (s : State) : (reply v s).col = s.col := rfl
@[simp] theorem reply_rdata (v : Word) (s : State) : (reply v s).rdata = s.rdata := rfl
@[simp] theorem reply_outlen (v : Word) (s : State) : (reply v s).outlen = s.outlen := rfl
@[simp] theorem reply_buf (v : Word) (s : State) : (reply v s).buf = s.buf := rfl
@[simp] theorem reply_colreg (v : Word) (s : State) : (reply v s).colreg = s.colreg := rfl
@[simp] theorem reply_out (v : Word) (s : State) : (reply v s).out = s.out := rfl
@[simp] theorem reply_maxColumns (v : Word) (s : State) : (reply v s).maxColumns = s.maxColumns := rfl
@[simp] theorem reply_bcxBase (v : Word) (s : State) : (reply v s).bcxBase = s.bcxBase := rfl
@[simp] theorem reply_pending (v : Word) (s : State) : (reply v s).pending = s.pending := rfl
@[simp] theorem reply_replies (v : Word) (s : State) : (reply v s).replies = s.replies ++ [v] := rfl

/-! `goUnlessError` (41_extractor.md R124 to R126). -/

@[simp] theorem goUnlessError_pstate (p : PState) (s : State) :
    (goUnlessError p s).pstate = if s.pstate = .error then .error else p := by
  unfold goUnlessError; split <;> simp_all
@[simp] theorem goUnlessError_fmt (p : PState) (s : State) : (goUnlessError p s).fmt = s.fmt := by
  unfold goUnlessError; split <;> rfl
@[simp] theorem goUnlessError_filled (p : PState) (s : State) : (goUnlessError p s).filled = s.filled := by
  unfold goUnlessError; split <;> rfl
@[simp] theorem goUnlessError_perr (p : PState) (s : State) : (goUnlessError p s).perr = s.perr := by
  unfold goUnlessError; split <;> rfl
@[simp] theorem goUnlessError_cerr (p : PState) (s : State) : (goUnlessError p s).cerr = s.cerr := by
  unfold goUnlessError; split <;> rfl
@[simp] theorem goUnlessError_width (p : PState) (s : State) : (goUnlessError p s).width = s.width := by
  unfold goUnlessError; split <;> rfl
@[simp] theorem goUnlessError_height (p : PState) (s : State) : (goUnlessError p s).height = s.height := by
  unfold goUnlessError; split <;> rfl
@[simp] theorem goUnlessError_acc (p : PState) (s : State) : (goUnlessError p s).acc = s.acc := by
  unfold goUnlessError; split <;> rfl
@[simp] theorem goUnlessError_row (p : PState) (s : State) : (goUnlessError p s).row = s.row := by
  unfold goUnlessError; split <;> rfl
@[simp] theorem goUnlessError_col (p : PState) (s : State) : (goUnlessError p s).col = s.col := by
  unfold goUnlessError; split <;> rfl
@[simp] theorem goUnlessError_rdata (p : PState) (s : State) : (goUnlessError p s).rdata = s.rdata := by
  unfold goUnlessError; split <;> rfl
@[simp] theorem goUnlessError_outlen (p : PState) (s : State) : (goUnlessError p s).outlen = s.outlen := by
  unfold goUnlessError; split <;> rfl
@[simp] theorem goUnlessError_buf (p : PState) (s : State) : (goUnlessError p s).buf = s.buf := by
  unfold goUnlessError; split <;> rfl
@[simp] theorem goUnlessError_colreg (p : PState) (s : State) : (goUnlessError p s).colreg = s.colreg := by
  unfold goUnlessError; split <;> rfl
@[simp] theorem goUnlessError_out (p : PState) (s : State) : (goUnlessError p s).out = s.out := by
  unfold goUnlessError; split <;> rfl
@[simp] theorem goUnlessError_maxColumns (p : PState) (s : State) : (goUnlessError p s).maxColumns = s.maxColumns := by
  unfold goUnlessError; split <;> rfl
@[simp] theorem goUnlessError_bcxBase (p : PState) (s : State) : (goUnlessError p s).bcxBase = s.bcxBase := by
  unfold goUnlessError; split <;> rfl
@[simp] theorem goUnlessError_pending (p : PState) (s : State) : (goUnlessError p s).pending = s.pending := by
  unfold goUnlessError; split <;> rfl
@[simp] theorem goUnlessError_replies (p : PState) (s : State) : (goUnlessError p s).replies = s.replies := by
  unfold goUnlessError; split <;> rfl

/-! `bufWrite`: only BUF (its bytes: Laws/Buffer.lean). -/

@[simp] theorem bufWrite_pstate (c k : Nat) (v : Byte) (s : State) : (bufWrite c k v s).pstate = s.pstate := by
  unfold bufWrite; split <;> rfl
@[simp] theorem bufWrite_fmt (c k : Nat) (v : Byte) (s : State) : (bufWrite c k v s).fmt = s.fmt := by
  unfold bufWrite; split <;> rfl
@[simp] theorem bufWrite_filled (c k : Nat) (v : Byte) (s : State) : (bufWrite c k v s).filled = s.filled := by
  unfold bufWrite; split <;> rfl
@[simp] theorem bufWrite_perr (c k : Nat) (v : Byte) (s : State) : (bufWrite c k v s).perr = s.perr := by
  unfold bufWrite; split <;> rfl
@[simp] theorem bufWrite_cerr (c k : Nat) (v : Byte) (s : State) : (bufWrite c k v s).cerr = s.cerr := by
  unfold bufWrite; split <;> rfl
@[simp] theorem bufWrite_width (c k : Nat) (v : Byte) (s : State) : (bufWrite c k v s).width = s.width := by
  unfold bufWrite; split <;> rfl
@[simp] theorem bufWrite_height (c k : Nat) (v : Byte) (s : State) : (bufWrite c k v s).height = s.height := by
  unfold bufWrite; split <;> rfl
@[simp] theorem bufWrite_acc (c k : Nat) (v : Byte) (s : State) : (bufWrite c k v s).acc = s.acc := by
  unfold bufWrite; split <;> rfl
@[simp] theorem bufWrite_row (c k : Nat) (v : Byte) (s : State) : (bufWrite c k v s).row = s.row := by
  unfold bufWrite; split <;> rfl
@[simp] theorem bufWrite_col (c k : Nat) (v : Byte) (s : State) : (bufWrite c k v s).col = s.col := by
  unfold bufWrite; split <;> rfl
@[simp] theorem bufWrite_rdata (c k : Nat) (v : Byte) (s : State) : (bufWrite c k v s).rdata = s.rdata := by
  unfold bufWrite; split <;> rfl
@[simp] theorem bufWrite_outlen (c k : Nat) (v : Byte) (s : State) : (bufWrite c k v s).outlen = s.outlen := by
  unfold bufWrite; split <;> rfl
@[simp] theorem bufWrite_colreg (c k : Nat) (v : Byte) (s : State) : (bufWrite c k v s).colreg = s.colreg := by
  unfold bufWrite; split <;> rfl
@[simp] theorem bufWrite_out (c k : Nat) (v : Byte) (s : State) : (bufWrite c k v s).out = s.out := by
  unfold bufWrite; split <;> rfl
@[simp] theorem bufWrite_maxColumns (c k : Nat) (v : Byte) (s : State) : (bufWrite c k v s).maxColumns = s.maxColumns := by
  unfold bufWrite; split <;> rfl
@[simp] theorem bufWrite_bcxBase (c k : Nat) (v : Byte) (s : State) : (bufWrite c k v s).bcxBase = s.bcxBase := by
  unfold bufWrite; split <;> rfl
@[simp] theorem bufWrite_pending (c k : Nat) (v : Byte) (s : State) : (bufWrite c k v s).pending = s.pending := by
  unfold bufWrite; split <;> rfl
@[simp] theorem bufWrite_replies (c k : Nat) (v : Byte) (s : State) : (bufWrite c k v s).replies = s.replies := by
  unfold bufWrite; split <;> rfl

/-! `setPixel`: only BUF (41_extractor.md R134). -/

@[simp] theorem setPixel_pstate (r c : Nat) (black : Bool) (s : State) : (setPixel r c black s).pstate = s.pstate := by
  unfold setPixel; split <;> simp
@[simp] theorem setPixel_fmt (r c : Nat) (black : Bool) (s : State) : (setPixel r c black s).fmt = s.fmt := by
  unfold setPixel; split <;> simp
@[simp] theorem setPixel_filled (r c : Nat) (black : Bool) (s : State) : (setPixel r c black s).filled = s.filled := by
  unfold setPixel; split <;> simp
@[simp] theorem setPixel_perr (r c : Nat) (black : Bool) (s : State) : (setPixel r c black s).perr = s.perr := by
  unfold setPixel; split <;> simp
@[simp] theorem setPixel_cerr (r c : Nat) (black : Bool) (s : State) : (setPixel r c black s).cerr = s.cerr := by
  unfold setPixel; split <;> simp
@[simp] theorem setPixel_width (r c : Nat) (black : Bool) (s : State) : (setPixel r c black s).width = s.width := by
  unfold setPixel; split <;> simp
@[simp] theorem setPixel_height (r c : Nat) (black : Bool) (s : State) : (setPixel r c black s).height = s.height := by
  unfold setPixel; split <;> simp
@[simp] theorem setPixel_acc (r c : Nat) (black : Bool) (s : State) : (setPixel r c black s).acc = s.acc := by
  unfold setPixel; split <;> simp
@[simp] theorem setPixel_row (r c : Nat) (black : Bool) (s : State) : (setPixel r c black s).row = s.row := by
  unfold setPixel; split <;> simp
@[simp] theorem setPixel_col (r c : Nat) (black : Bool) (s : State) : (setPixel r c black s).col = s.col := by
  unfold setPixel; split <;> simp
@[simp] theorem setPixel_rdata (r c : Nat) (black : Bool) (s : State) : (setPixel r c black s).rdata = s.rdata := by
  unfold setPixel; split <;> simp
@[simp] theorem setPixel_outlen (r c : Nat) (black : Bool) (s : State) : (setPixel r c black s).outlen = s.outlen := by
  unfold setPixel; split <;> simp
@[simp] theorem setPixel_colreg (r c : Nat) (black : Bool) (s : State) : (setPixel r c black s).colreg = s.colreg := by
  unfold setPixel; split <;> simp
@[simp] theorem setPixel_out (r c : Nat) (black : Bool) (s : State) : (setPixel r c black s).out = s.out := by
  unfold setPixel; split <;> simp
@[simp] theorem setPixel_maxColumns (r c : Nat) (black : Bool) (s : State) : (setPixel r c black s).maxColumns = s.maxColumns := by
  unfold setPixel; split <;> simp
@[simp] theorem setPixel_bcxBase (r c : Nat) (black : Bool) (s : State) : (setPixel r c black s).bcxBase = s.bcxBase := by
  unfold setPixel; split <;> simp
@[simp] theorem setPixel_pending (r c : Nat) (black : Bool) (s : State) : (setPixel r c black s).pending = s.pending := by
  unfold setPixel; split <;> simp
@[simp] theorem setPixel_replies (r c : Nat) (black : Bool) (s : State) : (setPixel r c black s).replies = s.replies := by
  unfold setPixel; split <;> simp

/-! `setByte`: only BUF (R132). -/

/-- A fold of pixel writes keeps every field that one pixel write keeps. -/
theorem foldl_setPixel_keeps {α : Type} (f : State → α) (h : ∀ r c b s, f (setPixel r c b s) = f s) (r : Nat)
    (c : Nat → Nat) (b : Nat → Bool) (ts : List Nat) (s : State) :
    f (ts.foldl (fun s' t => setPixel r (c t) (b t) s') s) = f s := by
  induction ts generalizing s with
  | nil => rfl
  | cons t ts ih => rw [List.foldl_cons, ih, h]

@[simp] theorem setByte_pstate (b : Byte) (s : State) : (setByte b s).pstate = s.pstate :=
  foldl_setPixel_keeps State.pstate setPixel_pstate _ _ _ _ _
@[simp] theorem setByte_fmt (b : Byte) (s : State) : (setByte b s).fmt = s.fmt :=
  foldl_setPixel_keeps State.fmt setPixel_fmt _ _ _ _ _
@[simp] theorem setByte_filled (b : Byte) (s : State) : (setByte b s).filled = s.filled :=
  foldl_setPixel_keeps State.filled setPixel_filled _ _ _ _ _
@[simp] theorem setByte_perr (b : Byte) (s : State) : (setByte b s).perr = s.perr :=
  foldl_setPixel_keeps State.perr setPixel_perr _ _ _ _ _
@[simp] theorem setByte_cerr (b : Byte) (s : State) : (setByte b s).cerr = s.cerr :=
  foldl_setPixel_keeps State.cerr setPixel_cerr _ _ _ _ _
@[simp] theorem setByte_width (b : Byte) (s : State) : (setByte b s).width = s.width :=
  foldl_setPixel_keeps State.width setPixel_width _ _ _ _ _
@[simp] theorem setByte_height (b : Byte) (s : State) : (setByte b s).height = s.height :=
  foldl_setPixel_keeps State.height setPixel_height _ _ _ _ _
@[simp] theorem setByte_acc (b : Byte) (s : State) : (setByte b s).acc = s.acc :=
  foldl_setPixel_keeps State.acc setPixel_acc _ _ _ _ _
@[simp] theorem setByte_row (b : Byte) (s : State) : (setByte b s).row = s.row :=
  foldl_setPixel_keeps State.row setPixel_row _ _ _ _ _
@[simp] theorem setByte_col (b : Byte) (s : State) : (setByte b s).col = s.col :=
  foldl_setPixel_keeps State.col setPixel_col _ _ _ _ _
@[simp] theorem setByte_rdata (b : Byte) (s : State) : (setByte b s).rdata = s.rdata :=
  foldl_setPixel_keeps State.rdata setPixel_rdata _ _ _ _ _
@[simp] theorem setByte_outlen (b : Byte) (s : State) : (setByte b s).outlen = s.outlen :=
  foldl_setPixel_keeps State.outlen setPixel_outlen _ _ _ _ _
@[simp] theorem setByte_colreg (b : Byte) (s : State) : (setByte b s).colreg = s.colreg :=
  foldl_setPixel_keeps State.colreg setPixel_colreg _ _ _ _ _
@[simp] theorem setByte_out (b : Byte) (s : State) : (setByte b s).out = s.out :=
  foldl_setPixel_keeps State.out setPixel_out _ _ _ _ _
@[simp] theorem setByte_maxColumns (b : Byte) (s : State) : (setByte b s).maxColumns = s.maxColumns :=
  foldl_setPixel_keeps State.maxColumns setPixel_maxColumns _ _ _ _ _
@[simp] theorem setByte_bcxBase (b : Byte) (s : State) : (setByte b s).bcxBase = s.bcxBase :=
  foldl_setPixel_keeps State.bcxBase setPixel_bcxBase _ _ _ _ _
@[simp] theorem setByte_pending (b : Byte) (s : State) : (setByte b s).pending = s.pending :=
  foldl_setPixel_keeps State.pending setPixel_pending _ _ _ _ _
@[simp] theorem setByte_replies (b : Byte) (s : State) : (setByte b s).replies = s.replies :=
  foldl_setPixel_keeps State.replies setPixel_replies _ _ _ _ _

/-! `setPos` and `setFull` (10_state.md R23, 41_extractor.md R133). -/

@[simp] theorem setPos_pstate (r : BitVec 8) (c : BitVec 24) (s : State) : (setPos r c s).pstate = s.pstate := rfl
@[simp] theorem setPos_fmt (r : BitVec 8) (c : BitVec 24) (s : State) : (setPos r c s).fmt = s.fmt := rfl
@[simp] theorem setPos_filled (r : BitVec 8) (c : BitVec 24) (s : State) : (setPos r c s).filled = s.filled := rfl
@[simp] theorem setPos_perr (r : BitVec 8) (c : BitVec 24) (s : State) : (setPos r c s).perr = s.perr := rfl
@[simp] theorem setPos_cerr (r : BitVec 8) (c : BitVec 24) (s : State) : (setPos r c s).cerr = s.cerr := rfl
@[simp] theorem setPos_width (r : BitVec 8) (c : BitVec 24) (s : State) : (setPos r c s).width = s.width := rfl
@[simp] theorem setPos_height (r : BitVec 8) (c : BitVec 24) (s : State) : (setPos r c s).height = s.height := rfl
@[simp] theorem setPos_acc (r : BitVec 8) (c : BitVec 24) (s : State) : (setPos r c s).acc = s.acc := rfl
@[simp] theorem setPos_row (r : BitVec 8) (c : BitVec 24) (s : State) : (setPos r c s).row = r := rfl
@[simp] theorem setPos_col (r : BitVec 8) (c : BitVec 24) (s : State) : (setPos r c s).col = c := rfl
@[simp] theorem setPos_rdata (r : BitVec 8) (c : BitVec 24) (s : State) : (setPos r c s).rdata = s.rdata := rfl
@[simp] theorem setPos_outlen (r : BitVec 8) (c : BitVec 24) (s : State) : (setPos r c s).outlen = s.outlen := rfl
@[simp] theorem setPos_buf (r : BitVec 8) (c : BitVec 24) (s : State) : (setPos r c s).buf = s.buf := rfl
@[simp] theorem setPos_colreg (r : BitVec 8) (c : BitVec 24) (s : State) : (setPos r c s).colreg = s.colreg := rfl
@[simp] theorem setPos_out (r : BitVec 8) (c : BitVec 24) (s : State) : (setPos r c s).out = s.out := rfl
@[simp] theorem setPos_maxColumns (r : BitVec 8) (c : BitVec 24) (s : State) : (setPos r c s).maxColumns = s.maxColumns := rfl
@[simp] theorem setPos_bcxBase (r : BitVec 8) (c : BitVec 24) (s : State) : (setPos r c s).bcxBase = s.bcxBase := rfl
@[simp] theorem setPos_pending (r : BitVec 8) (c : BitVec 24) (s : State) : (setPos r c s).pending = s.pending := rfl
@[simp] theorem setPos_replies (r : BitVec 8) (c : BitVec 24) (s : State) : (setPos r c s).replies = s.replies := rfl
@[simp] theorem setFull_pstate (s : State) : (setFull s).pstate = .full := rfl
@[simp] theorem setFull_fmt (s : State) : (setFull s).fmt = s.fmt := rfl
@[simp] theorem setFull_filled (s : State) : (setFull s).filled = true := rfl
@[simp] theorem setFull_perr (s : State) : (setFull s).perr = s.perr := rfl
@[simp] theorem setFull_cerr (s : State) : (setFull s).cerr = s.cerr := rfl
@[simp] theorem setFull_width (s : State) : (setFull s).width = s.width := rfl
@[simp] theorem setFull_height (s : State) : (setFull s).height = s.height := rfl
@[simp] theorem setFull_acc (s : State) : (setFull s).acc = s.acc := rfl
@[simp] theorem setFull_row (s : State) : (setFull s).row = s.row := rfl
@[simp] theorem setFull_col (s : State) : (setFull s).col = s.col := rfl
@[simp] theorem setFull_rdata (s : State) : (setFull s).rdata = s.rdata := rfl
@[simp] theorem setFull_outlen (s : State) : (setFull s).outlen = s.outlen := rfl
@[simp] theorem setFull_buf (s : State) : (setFull s).buf = s.buf := rfl
@[simp] theorem setFull_colreg (s : State) : (setFull s).colreg = s.colreg := rfl
@[simp] theorem setFull_out (s : State) : (setFull s).out = s.out := rfl
@[simp] theorem setFull_maxColumns (s : State) : (setFull s).maxColumns = s.maxColumns := rfl
@[simp] theorem setFull_bcxBase (s : State) : (setFull s).bcxBase = s.bcxBase := rfl
@[simp] theorem setFull_pending (s : State) : (setFull s).pending = s.pending := rfl
@[simp] theorem setFull_replies (s : State) : (setFull s).replies = s.replies := rfl

/-! `applyReset` (70_reset_and_hazards.md R200, R201). -/

@[simp] theorem applyReset_pstate (s : State) : (applyReset s).pstate = .idle := rfl
@[simp] theorem applyReset_fmt (s : State) : (applyReset s).fmt = .none := rfl
@[simp] theorem applyReset_filled (s : State) : (applyReset s).filled = false := rfl
@[simp] theorem applyReset_perr (s : State) : (applyReset s).perr = .none := rfl
@[simp] theorem applyReset_cerr (s : State) : (applyReset s).cerr = .none := rfl
@[simp] theorem applyReset_width (s : State) : (applyReset s).width = 0#21 := rfl
@[simp] theorem applyReset_height (s : State) : (applyReset s).height = 0#8 := rfl
@[simp] theorem applyReset_acc (s : State) : (applyReset s).acc = 0#21 := rfl
@[simp] theorem applyReset_row (s : State) : (applyReset s).row = 0#8 := rfl
@[simp] theorem applyReset_col (s : State) : (applyReset s).col = 0#24 := rfl
@[simp] theorem applyReset_rdata (s : State) : (applyReset s).rdata = 0#8 := rfl
@[simp] theorem applyReset_outlen (s : State) : (applyReset s).outlen = 0#32 := rfl
@[simp] theorem applyReset_buf (s : State) : (applyReset s).buf = [] := rfl
@[simp] theorem applyReset_colreg (s : State) : (applyReset s).colreg = Vector.replicate Config.colBytes 0#8 := rfl
@[simp] theorem applyReset_out (s : State) : (applyReset s).out = Vector.replicate Config.outCap 0#8 := rfl
@[simp] theorem applyReset_maxColumns (s : State) : (applyReset s).maxColumns = s.maxColumns := rfl
@[simp] theorem applyReset_bcxBase (s : State) : (applyReset s).bcxBase = s.bcxBase := rfl
@[simp] theorem applyReset_pending (s : State) : (applyReset s).pending = s.pending := rfl
@[simp] theorem applyReset_replies (s : State) : (applyReset s).replies = s.replies := rfl

end Sys2Proof.Machine
end

