-- ==== Sys2Proof/Laws/Buffer.lean ====
section
/-! SUPPORT. The laws of the column buffer: bytes, pixels, and that every write keeps it well formed. -/

namespace Sys2Proof.Machine

/-- Two bytes of BUF have different addresses. -/
theorem bufAddr_inj {c k c' k' : Nat} (hk : k < Config.colBytes) (hk' : k' < Config.colBytes)
    (h : bufAddr c k = bufAddr c' k') : c = c' ∧ k = k' := by
  unfold bufAddr Config.colBytes at *; omega

/-- What a write of a byte does to any address. -/
theorem bufWrite_buf_read_other (c k : Nat) (v : Byte) (s : State) {a : Nat} (h : a ≠ bufAddr c k) :
    (bufWrite c k v s).buf.read a = s.buf.read a := by
  unfold bufWrite; split
  · exact Memory.read_write_other _ _ h
  · rfl

theorem bufRead_bufWrite_same {c k : Nat} (v : Byte) {s : State} (hwf : s.buf.wf = true) (hc : c < s.maxColumns)
    (hk : k < Config.colBytes) : bufRead (bufWrite c k v s) c k = v := by
  unfold bufRead bufWrite; rw [if_pos ⟨hc, hk⟩]; exact Memory.read_write_same hwf _ _

theorem bufRead_bufWrite_other {c k c' k' : Nat} (v : Byte) (s : State) (hk : k < Config.colBytes)
    (hk' : k' < Config.colBytes) (h : ¬ (c' = c ∧ k' = k)) : bufRead (bufWrite c k v s) c' k' = bufRead s c' k' :=
  bufWrite_buf_read_other _ _ _ _ fun he => h (bufAddr_inj hk' hk he)

/-- Every write of a byte keeps BUF well formed. -/
theorem bufOk_bufWrite (c k : Nat) (v : Byte) {s : State} (h : BufOk s) : BufOk (bufWrite c k v s) := by
  unfold bufWrite
  split
  · rename_i hck
    refine ⟨Memory.wf_write h.1 _ _, fun cell hm => ?_⟩
    rcases Memory.mem_write hm with rfl | hm
    · have hc := hck.1
      have hk := hck.2
      simp only [bufAddr, Config.colBytes] at *
      omega
    · exact h.2 cell hm
  · exact h

/-- Every pixel written keeps BUF well formed. -/
theorem bufOk_setPixel (r c : Nat) (black : Bool) {s : State} (h : BufOk s) : BufOk (setPixel r c black s) := by
  unfold setPixel; split
  · exact bufOk_bufWrite _ _ _ h
  · exact h

/-- A byte of pixels keeps BUF well formed. -/
theorem bufOk_setByte (b : Byte) {s : State} (h : BufOk s) : BufOk (setByte b s) := by
  suffices ∀ (ts : List Nat) (x : State), BufOk x →
      BufOk (ts.foldl (fun s' t => setPixel s.row.toNat (s.col.toNat + t) (b.getLsbD (7 - t)) s') x) from this _ _ h
  intro ts
  induction ts with
  | nil => exact fun _ h => h
  | cons t ts ih => exact fun x h => ih _ (bufOk_setPixel _ _ _ h)

/-- A pixel is a bit of BUF, and of nothing else. -/
theorem pixel_of_buf {s t : State} (h : t.buf = s.buf) (r c : Nat) : pixel t r c = pixel s r c := by
  unfold pixel bufRead; rw [h]

@[simp] theorem pixel_setPos (row : BitVec 8) (col : BitVec 24) (s : State) (r c : Nat) :
    pixel (setPos row col s) r c = pixel s r c := rfl

@[simp] theorem pixel_setFull (s : State) (r c : Nat) : pixel (setFull s) r c = pixel s r c := rfl

@[simp] theorem pixel_checkFull (s : State) (r c : Nat) : pixel (checkFull s) r c = pixel s r c := by
  unfold checkFull; split
  · exact pixel_setFull s r c
  · rfl

/-- A pixel write touches no byte but the pixel's. -/
theorem setPixel_buf_read_other (r c : Nat) (black : Bool) (s : State) {a : Nat} (h : a ≠ bufAddr c (r / 8)) :
    (setPixel r c black s).buf.read a = s.buf.read a := by
  unfold setPixel; split
  · exact bufWrite_buf_read_other _ _ _ _ h
  · rfl

/-- A pixel outside the declared dimensions is dropped (41_extractor.md R134). -/
theorem setPixel_outside {r c : Nat} (black : Bool) {s : State} (h : s.height.toNat ≤ r ∨ s.width.toNat ≤ c) :
    setPixel r c black s = s := by
  unfold setPixel; rw [if_neg]; omega

/-- The bits of a pixel's mask: the pixel's own, and no other. -/
theorem getLsbD_pixelMask (r i : Nat) : (pixelMask r).getLsbD i = decide (i = 7 - r % 8) := by
  have h : r % 8 < 8 := Nat.mod_lt _ (by decide)
  unfold pixelMask
  generalize r % 8 = m at h
  rw [BitVec.getLsbD_shiftLeft]
  by_cases hi : i < 8
  · interval_cases m <;> interval_cases i <;> decide
  · simp only [hi, decide_false, Bool.false_and, Bool.false_eq, decide_eq_false_iff_not]; omega

/-- SetPixel sets the pixel, inside the dimensions (R134). -/
theorem pixel_setPixel_same {r c : Nat} (black : Bool) {s : State} (hwf : s.buf.wf = true)
    (hr : r < s.height.toNat) (hc : c < s.width.toNat) (hh : s.height.toNat ≤ Config.maxHeight)
    (hw : s.width.toNat ≤ s.maxColumns) : pixel (setPixel r c black s) r c = black := by
  have hk : r / 8 < Config.colBytes := by simp only [Config.maxHeight, Config.colBytes] at *; omega
  unfold pixel setPixel
  rw [if_pos ⟨hr, hc⟩, bufRead_bufWrite_same _ hwf (by omega) hk]
  cases black <;>
    simp only [Bool.false_eq_true, if_false, if_true, BitVec.getLsbD_or, BitVec.getLsbD_and, BitVec.getLsbD_not,
      getLsbD_pixelMask] <;> simp

/-- SetPixel leaves every other pixel alone. -/
theorem pixel_setPixel_other {r c r' c' : Nat} (black : Bool) {s : State} (hwf : s.buf.wf = true)
    (hr' : r' < Config.maxHeight) (hh : s.height.toNat ≤ Config.maxHeight) (hw : s.width.toNat ≤ s.maxColumns)
    (h : ¬ (r' = r ∧ c' = c)) : pixel (setPixel r c black s) r' c' = pixel s r' c' := by
  by_cases hin : s.height.toNat ≤ r ∨ s.width.toNat ≤ c
  · rw [setPixel_outside black hin]
  have hk' : r' / 8 < Config.colBytes := by simp only [Config.maxHeight, Config.colBytes] at *; omega
  have hk : r / 8 < Config.colBytes := by simp only [Config.maxHeight, Config.colBytes] at *; omega
  unfold pixel setPixel
  rw [if_pos (by omega)]
  by_cases hb : c' = c ∧ r' / 8 = r / 8
  · obtain ⟨rfl, hb⟩ := hb
    rw [hb, bufRead_bufWrite_same _ hwf (by omega) hk]
    have hne : 7 - r' % 8 ≠ 7 - r % 8 := by omega
    have hlt : 7 - r' % 8 < 8 := by omega
    cases black <;>
      simp only [Bool.false_eq_true, if_false, if_true, BitVec.getLsbD_or, BitVec.getLsbD_and, BitVec.getLsbD_not,
        getLsbD_pixelMask, hne, hlt] <;> simp
  · rw [bufRead_bufWrite_other _ _ hk hk' hb]

end Sys2Proof.Machine
end

