-- ==== Sys2Proof/Laws/PerInstr.lean ====
section
/-! SUPPORT. A fact about every command as syntax: its word is a fully legal word of its row (30_encoding.md R74). -/

namespace Sys2Proof.Laws

/-- The word of a command agrees with its row's match on the row's mask. -/
def RowPattern.Statement (i : Instr) : Prop :=
  encode i &&& maskOf (mnemonicOfInstr i) = matchOf (mnemonicOfInstr i)

/-- A field between two constants leaves the constants' bits under a mask that hides it. -/
theorem and_mask_eq {w mask pat : Word} (h : ∀ i : Fin 32, mask.getLsbD i = true → w.getLsbD i = pat.getLsbD i)
    (hp : ∀ i : Fin 32, mask.getLsbD i = false → pat.getLsbD i = false) : w &&& mask = pat := by
  apply BitVec.eq_of_getLsbD_eq
  intro i hi
  rw [BitVec.getLsbD_and]
  cases hm : mask.getLsbD i
  · rw [Bool.and_false, hp ⟨i, hi⟩ hm]
  · rw [Bool.and_true, h ⟨i, hi⟩ hm]

theorem RowPattern.nop : RowPattern.Statement .nop := by unfold RowPattern.Statement; decide
theorem RowPattern.sreset : RowPattern.Statement .sreset := by unfold RowPattern.Statement; decide
theorem RowPattern.jobStart : RowPattern.Statement .jobStart := by unfold RowPattern.Statement; decide
theorem RowPattern.feedEnd : RowPattern.Statement .feedEnd := by unfold RowPattern.Statement; decide
theorem RowPattern.encode : RowPattern.Statement .encode := by unfold RowPattern.Statement; decide

theorem RowPattern.feed (b : Byte) : RowPattern.Statement (.feed b) := by
  change Sys2Proof.encode (.feed b) &&& 0xFFFFFF00#32 = 0x03000000#32
  refine and_mask_eq (fun j => ?_) (by decide)
  simp only [Sys2Proof.encode, BitVec.getLsbD_append]
  fin_cases j <;> simp

theorem RowPattern.bufrd (c : BitVec 20) (k : BitVec 4) : RowPattern.Statement (.bufrd c k) := by
  change Sys2Proof.encode (.bufrd c k) &&& 0xFF000000#32 = 0x05000000#32
  refine and_mask_eq (fun j => ?_) (by decide)
  simp only [Sys2Proof.encode, BitVec.getLsbD_append]
  fin_cases j <;> simp

theorem RowPattern.loadcol (c : BitVec 20) : RowPattern.Statement (.loadcol c) := by
  change Sys2Proof.encode (.loadcol c) &&& 0xFFF00000#32 = 0x06000000#32
  refine and_mask_eq (fun j => ?_) (by decide)
  simp only [Sys2Proof.encode, BitVec.getLsbD_append]
  fin_cases j <;> simp

theorem RowPattern.setcol (k : BitVec 4) (v : Byte) : RowPattern.Statement (.setcol k v) := by
  change Sys2Proof.encode (.setcol k v) &&& 0xFF0FFF00#32 = 0x07000000#32
  refine and_mask_eq (fun j => ?_) (by decide)
  simp only [Sys2Proof.encode, BitVec.getLsbD_append]
  fin_cases j <;> simp

theorem RowPattern.outrd (i : BitVec 6) : RowPattern.Statement (.outrd i) := by
  change Sys2Proof.encode (.outrd i) &&& 0xFFFFFFC0#32 = 0x09000000#32
  refine and_mask_eq (fun j => ?_) (by decide)
  simp only [Sys2Proof.encode, BitVec.getLsbD_append]
  fin_cases j <;> simp

theorem RowPattern.colrd (k : BitVec 4) : RowPattern.Statement (.colrd k) := by
  change Sys2Proof.encode (.colrd k) &&& 0xFF0FFFFF#32 = 0x0A000000#32
  refine and_mask_eq (fun j => ?_) (by decide)
  simp only [Sys2Proof.encode, BitVec.getLsbD_append]
  fin_cases j <;> simp

end Sys2Proof.Laws
end

