-- ==== Sys2Proof/Laws/Port.lean ====
section
/-! SUPPORT. What a step can do, said once, and the laws of the port. -/

namespace Sys2Proof.Machine

/-- A command error, as one record. -/
theorem raiseCmdError_eq (e : CmdCode) (s : State) : raiseCmdError e s = afterCmdError e s := by
  unfold raiseCmdError afterCmdError; split <;> rfl

/-- What an accepted command word can do. -/
theorem command_cases {w : Word} {s t : State} (h : command w s = .next t) :
    (decode w = .illegal ∧ t = raiseCmdError .illegalOpcode s) ∨
    (∃ m, decode w = .reserved m ∧ t = raiseCmdError .reservedNonzero s) ∨
    (∃ i, decode w = .cmd i ∧ exec i s = .next t) := by
  unfold command at h
  split at h
  · rename_i hd; cases h; exact .inl ⟨hd, rfl⟩
  · rename_i m hd; cases h; exact .inr (.inl ⟨m, hd, rfl⟩)
  · rename_i i hd; exact .inr (.inr ⟨i, hd, h⟩)

/-- An access is performed only at an aligned 32-bit window offset. -/
theorem onWindow_next {size : AccessSize} {addr : Nat} {s t : State} {k : Nat → Host.Outcome State Fault Refusal}
    (h : onWindow size addr s k = .next t) :
    ∃ off, addr = s.bcxBase + off ∧ off < Config.windowBytes ∧ size = .word ∧ off % 4 = 0 ∧ k off = .next t := by
  unfold onWindow at h
  split at h
  · cases h
  split at h
  · cases h
  split at h
  · cases h
  rename_i h1 h2 h3
  exact ⟨addr - s.bcxBase, by omega, by omega, by simpa using h2, by simpa using h3, h⟩

/-- An aligned 32-bit access inside the window is performed. -/
theorem onWindow_at {off : Nat} (s : State) (k : Nat → Host.Outcome State Fault Refusal)
    (h : off < Config.windowBytes) (h4 : off % 4 = 0) : onWindow .word (s.bcxBase + off) s k = k off := by
  unfold onWindow
  have hsub : s.bcxBase + off - s.bcxBase = off := by omega
  rw [if_neg (by omega), if_neg (by simp), hsub, if_neg (by omega)]

/-- An access of 8 or 16 bits is refused. -/
theorem onWindow_subWord {size : AccessSize} {off : Nat} (s : State) (k : Nat → Host.Outcome State Fault Refusal)
    (h : off < Config.windowBytes) (hs : size ≠ .word) :
    onWindow size (s.bcxBase + off) s k = .refused .subWordAccess := by
  unfold onWindow; rw [if_neg (by omega), if_pos hs]

/-- A misaligned 32-bit access is refused. -/
theorem onWindow_misaligned {off : Nat} (s : State) (k : Nat → Host.Outcome State Fault Refusal)
    (h : off < Config.windowBytes) (h4 : off % 4 ≠ 0) :
    onWindow .word (s.bcxBase + off) s k = .refused .misalignedAccess := by
  unfold onWindow; rw [if_neg (by omega), if_neg (by simp), if_pos (by omega)]

/-- An access outside the window faults. -/
theorem onWindow_outside {size : AccessSize} {addr : Nat} {s : State} (k : Nat → Host.Outcome State Fault Refusal)
    (h : addr < s.bcxBase ∨ s.bcxBase + Config.windowBytes ≤ addr) :
    onWindow size addr s k = .fault .outsideWindow := by
  unfold onWindow; rw [if_pos h]

/-- A step performs the oldest pending event. -/
theorem step_of_pending {s : State} {e : HostEvent} {rest : List HostEvent} (h : s.pending = e :: rest) :
    step s = perform e (withPending rest s) := by
  unfold step portStep; rw [h]

/-- A pending read, as an access of the window. -/
theorem step_of_read {s : State} {size : AccessSize} {addr : Nat} {rest : List HostEvent}
    (h : s.pending = .read size addr :: rest) :
    step s = onWindow size addr (withPending rest s)
      fun off => .next (reply (readOffset off (withPending rest s)) (withPending rest s)) := step_of_pending h

/-- A pending write, as an access of the window. -/
theorem step_of_write {s : State} {size : AccessSize} {addr : Nat} {v : Word} {rest : List HostEvent}
    (h : s.pending = .write size addr v :: rest) :
    step s = onWindow size addr (withPending rest s)
      fun off => if off = Reg.offset .cmd then command v (withPending rest s) else .next (withPending rest s) :=
  step_of_pending h

/-- A pending 32-bit CMD write is a command. -/
theorem step_of_command {s : State} {w : Word} {rest : List HostEvent} (h : NextIsCommand s w rest) :
    step s = command w (withPending rest s) := by
  rw [step_of_write h, show s.bcxBase + 4 = (withPending rest s).bcxBase + 4 from rfl,
    onWindow_at _ _ (by decide) (by decide)]
  rfl

/-- Everything a step can do. -/
theorem step_cases {s t : State} (h : step s = .next t) :
    (s.pending = [] ∧ t = s) ∨
    (∃ rest, s.pending = .hardReset :: rest ∧ t = applyReset (withPending rest s)) ∨
    (∃ off rest, s.pending = .read .word (s.bcxBase + off) :: rest ∧
      t = reply (readOffset off (withPending rest s)) (withPending rest s)) ∨
    (∃ off v rest, s.pending = .write .word (s.bcxBase + off) v :: rest ∧ off ≠ 4 ∧ t = withPending rest s) ∨
    (∃ w rest, s.pending = .write .word (s.bcxBase + 4) w :: rest ∧ command w (withPending rest s) = .next t) := by
  unfold step portStep at h
  split at h
  · rename_i hp; cases h; exact .inl ⟨hp, rfl⟩
  · rename_i e rest hp
    cases e with
    | read size addr =>
      unfold perform hostRead at h
      obtain ⟨off, ha, -, rfl, -, hk⟩ := onWindow_next h
      cases hk
      exact .inr (.inr (.inl ⟨off, rest, by rw [hp, ha, withPending_bcxBase], rfl⟩))
    | write size addr v =>
      unfold perform hostWrite at h
      obtain ⟨off, ha, -, rfl, -, hk⟩ := onWindow_next h
      split at hk
      · rename_i h4
        refine .inr (.inr (.inr (.inr ⟨v, rest, ?_, hk⟩)))
        rw [hp, ha, h4, withPending_bcxBase]; rfl
      · rename_i h4
        cases hk
        exact .inr (.inr (.inr (.inl ⟨off, v, rest, by rw [hp, ha, withPending_bcxBase], h4, rfl⟩)))
    | hardReset => cases h; exact .inr (.inl ⟨rest, hp, rfl⟩)

end Sys2Proof.Machine
end

