-- ==== Sys2Proof/Laws/Scan.lean ====
section
/-! SUPPORT. What the scanner can do to a state, said once: `scan` and `scanEnd` write only the scanner's registers and
variables and BUF. -/

namespace Sys2Proof.Machine

/-- A function of the state that sees none of what the scanner writes. -/
structure ScannerBlind {α : Type} (f : State → α) : Prop where
  pstate : ∀ s p, f { s with pstate := p } = f s
  fmtState : ∀ s m p, f { s with fmt := m, pstate := p } = f s
  error : ∀ s e, f (raiseFormatError e s) = f s
  acc : ∀ s a, f { s with acc := a } = f s
  widthAcc : ∀ s w a, f { s with width := w, acc := a } = f s
  heightAcc : ∀ s h a r c, f { s with height := h, acc := a, row := r, col := c } = f s
  pos : ∀ r c s, f (setPos r c s) = f s
  full : ∀ s, f (setFull s) = f s
  setPixel : ∀ r c b s, f (Machine.setPixel r c b s) = f s

namespace ScannerBlind
variable {α : Type} {f : State → α}

theorem goUnlessError (h : ScannerBlind f) (p : PState) (s : State) : f (Machine.goUnlessError p s) = f s := by
  unfold Machine.goUnlessError; split
  · rfl
  · exact h.pstate _ _

theorem accDigit (h : ScannerBlind f) (b : Byte) (l : Nat) (e : FormatCode) (s : State) :
    f (Machine.accDigit b l e s) = f s := by
  simp only [Machine.accDigit]; split
  · exact h.error _ _
  · exact h.acc _ _

theorem endWidth (h : ScannerBlind f) (s : State) : f (Machine.endWidth s) = f s := by
  unfold Machine.endWidth; split
  · exact h.error _ _
  · exact h.widthAcc _ _ _

theorem endHeight (h : ScannerBlind f) (s : State) : f (Machine.endHeight s) = f s := by
  unfold Machine.endHeight; split
  · exact h.error _ _
  · exact h.heightAcc _ _ _ _ _

theorem setByte (h : ScannerBlind f) (b : Byte) (s : State) : f (Machine.setByte b s) = f s :=
  foldl_setPixel_keeps f h.setPixel _ _ _ _ _

theorem asciiPixel (h : ScannerBlind f) (b : Byte) (s : State) : f (Machine.asciiPixel b s) = f s := by
  simp only [Machine.asciiPixel]; split
  · split
    · exact (h.pos _ _ _).trans (h.setPixel _ _ _ _)
    · exact (h.pos _ _ _).trans (h.setPixel _ _ _ _)
  · rfl

theorem binaryPixel (h : ScannerBlind f) (b : Byte) (s : State) : f (Machine.binaryPixel b s) = f s := by
  simp only [Machine.binaryPixel]; split
  · exact (h.pos _ _ _).trans (h.setByte _ _)
  · exact (h.pos _ _ _).trans (h.setByte _ _)

theorem scanPix (h : ScannerBlind f) (b : Byte) (s : State) : f (Machine.scanPix b s) = f s := by
  unfold Machine.scanPix checkFull
  have hp : f (if s.fmt = .ascii then Machine.asciiPixel b s else Machine.binaryPixel b s) = f s := by
    split
    · exact h.asciiPixel _ _
    · exact h.binaryPixel _ _
  generalize (if s.fmt = .ascii then Machine.asciiPixel b s else Machine.binaryPixel b s) = x at hp
  split
  · exact (h.full x).trans hp
  · exact hp

/-- `scan` changes nothing that such a function sees. -/
theorem scan (h : ScannerBlind f) (b : Byte) (s : State) : f (Machine.scan b s) = f s := by
  have hd (s : State) : f (widthDigit b s) = f s := h.accDigit _ _ _ _
  have hd' (s : State) : f (heightDigit b s) = f s := h.accDigit _ _ _ _
  have hc (p : PState) : f (scanComment p b s) = f s := by
    unfold scanComment; split
    · exact h.pstate _ _
    · rfl
  unfold Machine.scan
  split
  case h_12 => exact h.scanPix _ _
  all_goals
    first
    | rfl
    | exact hc _
    | (simp only [scanMagicP, scanMagicT, scanSep0, scanWsW, scanWsH, scanDigW, scanDigH]
       repeat' split
       all_goals simp only [h.pstate, h.fmtState, h.error, h.goUnlessError, hd, hd', h.acc, h.endWidth, h.endHeight])

/-- `scanEnd` changes nothing that such a function sees. -/
theorem scanEnd (h : ScannerBlind f) (s : State) : f (Machine.scanEnd s) = f s := by
  unfold Machine.scanEnd
  split <;> simp only [h.pstate, h.error, h.goUnlessError, h.endHeight]

end ScannerBlind

/-- What the scanner never writes: CERR, the encoder's registers and storage, the parameters, the port. -/
theorem scannerBlind_outside : ScannerBlind fun s : State =>
    (s.cerr, s.rdata, s.outlen, s.colreg, s.out, s.maxColumns, s.bcxBase, s.pending, s.replies) := by
  constructor <;> intros <;> simp

end Sys2Proof.Machine
end

