-- ==== Sys2Proof/Tests/Slice0.lean ====
section
/-! SUPPORT. Tests on single commands, their expected results taken from spec/95_test_vectors.md or worked out by hand
from the rule named, and the witnesses that the hypotheses of the statements can be met. -/

namespace Sys2Proof.Tests

open Sys2Proof.Machine

/-! ## Helpers -/

/-- The next state, if the step gives one. -/
def after (o : Host.Outcome State Fault Refusal) : Option State :=
  match o with
  | .next s => some s
  | .fault _ => none
  | .refused _ => none

/-- STATUS after one step on a CMD write of the word. -/
def statusAfter (w : Nat) (s : State) : Option Word := (after (step (s.withFetchWord 32 w))).map statusWord

/-- The reset state with another scanner state. -/
def at' (p : PState) : State := { State.reset with pstate := p }

/-- A column from its 16 bytes. -/
def column (bytes : List Byte) : Vector Byte 16 := Vector.ofFn fun k => bytes.getD k.val 0#8

/-- The reset state with a column in COLREG. -/
def withColumn (bytes : List Byte) : State := { State.reset with colreg := column bytes }

/-- Mid-stream in the pixels of a W × H bitmap, as a header leaves the scanner. -/
def inPixels (m : Fmt) (w : BitVec 21) (h : BitVec 8) : State :=
  { State.reset with pstate := .pix, fmt := m, width := w, height := h }

/-! ## Decoding: words written out from 30_encoding.md R71 and R74 (95_test_vectors.md 2.1) -/

theorem test_decode_nop : decode 0x00000000#32 = .cmd .nop := by decide
theorem test_decode_sreset : decode 0x01000000#32 = .cmd .sreset := by decide
theorem test_decode_jobStart : decode 0x02000000#32 = .cmd .jobStart := by decide
theorem test_decode_feed : decode 0x030000FF#32 = .cmd (.feed 0xFF#8) := by decide
theorem test_decode_feedEnd : decode 0x04000000#32 = .cmd .feedEnd := by decide
theorem test_decode_bufrd : decode 0x05F0003F#32 = .cmd (.bufrd 63#20 15#4) := by decide
theorem test_decode_loadcol : decode 0x060FFFFF#32 = .cmd (.loadcol 0xFFFFF#20) := by decide
theorem test_decode_setcol : decode 0x07A000C3#32 = .cmd (.setcol 10#4 0xC3#8) := by decide
theorem test_decode_encode : decode 0x08000000#32 = .cmd .encode := by decide
theorem test_decode_outrd : decode 0x0900003F#32 = .cmd (.outrd 63#6) := by decide
theorem test_decode_colrd : decode 0x0AF00000#32 = .cmd (.colrd 15#4) := by decide
theorem test_decode_illegal : decode 0x0B000000#32 = .illegal ∧ decode 0xFF123456#32 = .illegal := by decide
theorem test_decode_reserved :
    decode 0x00000001#32 = .reserved .nop ∧ decode 0x01800000#32 = .reserved .sreset ∧
    decode 0x03000100#32 = .reserved .feed ∧ decode 0x06100000#32 = .reserved .loadcol ∧
    decode 0x07001000#32 = .reserved .setcol ∧ decode 0x09000040#32 = .reserved .outrd ∧
    decode 0x0A000001#32 = .reserved .colrd := by decide
theorem test_decodeTableWord : decodeTableWord 32 0x07A000C3 = some (.setcol 10#4 0xC3#8) ∧
    decodeTableWord 32 0x0B000000 = none ∧ decodeTableWord 32 0x00000001 = none := by decide

/-! ## WellFormed: an ill-formed command for each check (30_encoding.md R72, MAX_COLUMNS = 64) -/

theorem test_wellFormed_bufrd : Instr.WellFormed 64 (.bufrd 64#20 0#4) = false ∧
    Instr.WellFormed 64 (.bufrd 63#20 15#4) = true := by decide
theorem test_wellFormed_loadcol : Instr.WellFormed 64 (.loadcol 64#20) = false ∧
    Instr.WellFormed 64 (.loadcol 63#20) = true := by decide
theorem test_wellFormed_outrd : Instr.WellFormed 64 (.outrd 35#6) = false ∧
    Instr.WellFormed 64 (.outrd 34#6) = true := by decide

/-! ## The codes (10_state.md R26; 60_exceptions.md R181, R182) and the constant registers (10_state.md R21) -/

theorem test_pstate_codes :
    [PState.idle, .magicP, .magicT, .sep0, .wsW, .digW, .wsH, .digH, .commentW, .commentH, .commentP, .pix, .full, .ended,
      .error].map PState.code = [0#4, 1#4, 2#4, 3#4, 4#4, 5#4, 6#4, 7#4, 8#4, 9#4, 10#4, 11#4, 12#4, 13#4, 14#4] := by decide
theorem test_perr_codes :
    [FormatCode.none, .badMagic, .unsupportedType, .noSeparator, .badHeaderChar, .zeroDimension, .widthTooLarge,
      .heightTooLarge, .eosInHeader].map FormatCode.code = [0#4, 1#4, 2#4, 3#4, 4#4, 5#4, 6#4, 7#4, 8#4] := by decide
theorem test_cerr_codes :
    [CmdCode.none, .illegalOpcode, .reservedNonzero, .operandRange, .sequence].map CmdCode.code =
      [0#3, 1#3, 2#3, 3#3, 4#3] := by decide
theorem test_constant_registers : readOffset 0x00 State.reset = 0x42435801#32 ∧
    readOffset 0x20 State.reset = 0x00802310#32 ∧ readOffset 0x24 State.reset = 0x40#32 ∧
    readOffset 0x28 State.reset = 0#32 := by decide
/-- A STATUS of the spec: ERROR, ASCII mode, BAD_HEADER_CHAR and the CERR of an illegal opcode (95 section 3). -/
theorem test_status_word : statusWord
    { at' .error with fmt := .ascii, perr := .badHeaderChar, cerr := .illegalOpcode } = 0x0000141E#32 := by decide

/-! ## Control commands (95 sections 2.2 and 3) -/

theorem test_nop : after (exec .nop (at' .error)) = some (at' .error) := by decide
theorem test_nop_reserved : statusAfter 0x00000001 (at' .magicP) = some 0x00002001#32 := by decide
theorem test_sreset : (after (exec .sreset { at' .error with fmt := .ascii, perr := .badHeaderChar, outlen := 5#32 })) =
    some State.reset := by decide
theorem test_sreset_reserved : statusAfter 0x01800000 (at' .magicP) = some 0x00002001#32 := by decide
theorem test_jobStart : statusAfter 0x02000000 { at' .error with cerr := .illegalOpcode } = some 0x00000001#32 := by decide
theorem test_jobStart_keeps : (after (exec .jobStart { at' .full with outlen := 7#32, buf := [(0, 0x40#8)] })).map
    (fun t => (t.outlen, t.buf)) = some (7#32, []) := by decide
theorem test_illegal : statusAfter 0xFF123456 (at' .magicP) = some 0x00001001#32 := by decide
theorem test_first_error_kept : statusAfter 0x00000001 { State.reset with cerr := .illegalOpcode } =
    some 0x00001000#32 := by decide
theorem test_reserved_before_range : statusAfter 0x06100040 (at' .magicP) = some 0x00002001#32 := by decide

/-! ## The extractor (95 sections 2.2, 4.1, 5) -/

theorem test_feed_sequence : statusAfter 0x03000050 State.reset = some 0x00004000#32 := by decide
theorem test_feed_digit : statusAfter 0x03000039 { at' .digH with fmt := .binary, width := 1#21, acc := 12#21 } =
    some 0x0000072E#32 := by decide
/-- `P1 3 2\n010\n10` and then '1': FULL, column 2 becomes 0x40. -/
theorem test_feed_ascii : (after (exec (.feed 0x31#8)
    { inPixels .ascii 3#21 2#8 with row := 1#8, col := 2#24, buf := [(0, 0x40#8), (16, 0x80#8)] })).map
    (fun t => (statusWord t, posWord t, t.buf)) =
    some (0x0000005C#32, 0x02000000#32, [(0, 0x40#8), (16, 0x80#8), (32, 0x40#8)]) := by decide
/-- `P4 10 1\n\xFF` and then 0xFF: the six padding pixels are dropped. -/
theorem test_feed_binary : (after (exec (.feed 0xFF#8) { inPixels .binary 10#21 1#8 with col := 8#24 })).map
    (fun t => (statusWord t, posWord t, t.buf)) =
    some (0x0000006C#32, 0x01000000#32, [(128, 0x80#8), (144, 0x80#8)]) := by decide
/-- A white pixel clears its bit, and a byte that becomes 0 is no longer listed (R134, R29). -/
theorem test_feed_white : (after (exec (.feed 0x30#8) { inPixels .ascii 3#21 2#8 with buf := [(0, 0x80#8)] })).map
    (fun t => t.buf) = some [] := by decide
theorem test_feedEnd_height : (after (exec .feedEnd { at' .digH with fmt := .ascii, width := 3#21, acc := 2#21 })).map
    (fun t => (statusWord t, t.height)) = some (0x0000001D#32, 2#8) := by decide
theorem test_feedEnd_header : statusAfter 0x04000000 (at' .magicP) = some 0x0000080E#32 := by decide
theorem test_bufrd : (after (exec (.bufrd 1#20 0#4) { State.reset with buf := [(0, 0x40#8), (16, 0x80#8)] })).map
    (readReg .rdata) = some 0x00000080#32 := by decide
theorem test_bufrd_range : statusAfter 0x05000040 (at' .magicP) = some 0x00003001#32 ∧
    statusAfter 0x05F0003F (at' .magicP) = some 0x00000001#32 := by decide

/-! ## The encoder (95 sections 1, 2.2, 4.2) -/

theorem test_loadcol : (after (exec (.loadcol 0#20) { State.reset with buf := [(0, 0x40#8), (15, 0x01#8), (16, 0x80#8)] })).map
    (fun t => t.colreg.toList) = some [0x40#8, 0, 0, 0, 0, 0, 0, 0, 0, 0, 0, 0, 0, 0, 0, 1] := by decide
theorem test_loadcol_range : statusAfter 0x06000040 (at' .magicP) = some 0x00003001#32 := by decide
theorem test_setcol : (after (exec (.setcol 15#4 0x01#8) State.reset)).map (fun t => t.colreg.toList) =
    some [0, 0, 0, 0, 0, 0, 0, 0, 0, 0, 0, 0, 0, 0, 0, 0x01#8] := by decide
theorem test_setcol_reserved : statusAfter 0x07001000 (at' .magicP) = some 0x00002001#32 := by decide
theorem test_encode_run : (after (exec .encode (withColumn (List.replicate 16 0xAA#8)))).map
    (fun t => (t.outlen, t.out.toList)) =
    some (5#32, [0x47#8, 0x02, 0x00, 0xF1, 0xAA] ++ List.replicate 30 0#8) := by decide
theorem test_encode_empty : (after (exec .encode { withColumn [] with outlen := 20#32 })).map
    (fun t => (t.outlen, t.out.toList)) = some (1#32, 0x5A#8 :: List.replicate 34 0#8) := by decide
theorem test_chunk_pairs_then_run : encodeChunk (column ([0x05#8, 0x05, 0x01, 0x02] ++ List.replicate 12 0x09#8)) =
    [0x47#8, 0x07, 0x00, 0x03, 0x05, 0x05, 0x01, 0x02, 0xF5, 0x09] := by decide
theorem test_chunk_shortest_runs : encodeChunk (column
    [1, 2, 2, 2, 1, 2, 2, 2, 1, 2, 2, 2, 1, 2, 2, 2]) =
    [0x47#8, 0x10, 0x00, 0x00, 0x01, 0xFE, 0x02, 0x00, 0x01, 0xFE, 0x02, 0x00, 0x01, 0xFE, 0x02, 0x00, 0x01, 0xFE, 0x02] := by
  decide
theorem test_chunk_longest : encodeChunk (column [1, 1, 2, 2, 3, 3, 4, 4, 5, 5, 6, 6, 7, 7, 8, 8]) =
    [0x47#8, 0x11, 0x00, 0x0F, 1, 1, 2, 2, 3, 3, 4, 4, 5, 5, 6, 6, 7, 7, 8, 8] := by decide
theorem test_oracle : decodeChunk [0x47#8, 0x05, 0x00, 0x01, 0x05, 0x05, 0xF3, 0x07] =
    some ([5, 5] ++ List.replicate 14 7) := by decide
theorem test_outrd : (after (exec (.outrd 3#6) { State.reset with
    out := outOf [0x47#8, 0x02, 0x00, 0xF1, 0xAA] })).map (readReg .rdata) = some 0x000000F1#32 := by decide
theorem test_outrd_range : statusAfter 0x09000023 (at' .magicP) = some 0x00003001#32 ∧
    statusAfter 0x09000022 (at' .magicP) = some 0x00000001#32 := by decide
theorem test_colrd : (after (exec (.colrd 15#4) (withColumn ((List.replicate 15 0#8) ++ [0x01#8])))).map (readReg .rdata) =
    some 0x00000001#32 := by decide
theorem test_colrd_reserved : statusAfter 0x0A000001 (at' .magicP) = some 0x00002001#32 := by decide

/-! ## The port (95 section 3) and the assembly text (30_encoding.md R78, R79) -/

theorem test_read_reply : (after (step { State.reset with pending := [.read .word 0x20] })).map (fun t => t.replies) =
    some [0x00802310#32] := by decide
theorem test_write_ignored : after (step { State.reset with pending := [.write .word 0x10 0x12345678#32] }) =
    some State.reset := by decide
theorem test_hard_reset : (after (step { at' .pix with pending := [.hardReset] })) = some State.reset := by decide
theorem test_asm_command : assembleLine (codesOf "  SETCOL 15, 0x01  ; note") = some [.issue (.setcol 15#4 1#8)] := by decide
theorem test_asm_character : assembleLine (codesOf "FEED 'P'") = some [.issue (.feed 0x50#8)] := by decide
theorem test_asm_range : assembleLine (codesOf "FEED 256") = none ∧ assembleLine (codesOf "SETCOL 16, 0") = none := by decide
theorem test_asm_read : assembleLine (codesOf "READ RDATA") = some [.read .rdata] := by decide
theorem test_asm_feeds : assembleLine (codesOf "FEEDS \"1\\n\\x0F\\\"\" ; end") =
    some [.issue (.feed 0x31#8), .issue (.feed 0x0A#8), .issue (.feed 0x0F#8), .issue (.feed 0x22#8)] := by decide
theorem test_asm_getout : assembleLine (codesOf "GETOUT 2") =
    some [.issue (.outrd 0#6), .read .rdata, .issue (.outrd 1#6), .read .rdata] := by decide

/-! ## Witnesses: for each statement with hypotheses, values that meet them, clause by clause -/

/-- The reset state meets the scanner's invariant. -/
theorem reset_scannerOk : ScannerOk State.reset := by constructor <;> decide

/-- A state in the pixels of an ASCII bitmap meets it too. -/
theorem ascii_scannerOk : ScannerOk (inPixels .ascii 3#21 2#8) := by constructor <;> decide

/-- So does a FULL one. -/
theorem full_scannerOk : ScannerOk { inPixels .ascii 3#21 2#8 with pstate := .full, filled := true, row := 2#8 } := by
  constructor <;> decide

theorem outsideWhite_of_empty {s : State} (h : s.buf = []) : OutsideWhite s := by
  intro r c _ _
  unfold pixel bufRead
  rw [h]
  exact BitVec.getLsbD_zero

/-- A pending CMD write of a word at the reset state's window. -/
def issuing (w : Word) (s : State) : State := { s with pending := [.write .word 4 w] }

theorem witness_EncodeOfDecode : decode 0x030000FF#32 = .cmd (.feed 0xFF#8) := by decide

theorem witness_IllegalOpcodeExecutesNothing :
    0x0B ≤ ((0x0B000000#32).extractLsb' 24 8).toNat ∧ 0x0B ≤ ((0xFF000000#32).extractLsb' 24 8).toNat ∧
    ((0x0A000000#32).extractLsb' 24 8).toNat ≤ 0x0A := by decide

theorem witness_ReservedBitExecutesNothing :
    mnemonicOf ((0x03000100#32).extractLsb' 24 8) = some .feed ∧ 0x03000100#32 &&& reservedPositions .feed ≠ 0#32 ∧
    mnemonicOf ((0x030000FF#32).extractLsb' 24 8) = some .feed ∧ 0x030000FF#32 &&& reservedPositions .feed = 0#32 := by
  decide

theorem witness_StepRunsDecodedCommand :
    NextIsCommand (issuing 0x02000000#32 State.reset) 0x02000000#32 [] ∧ decode 0x02000000#32 = .cmd .jobStart := by decide

theorem witness_StepRecordsUndecodedWord :
    NextIsCommand (issuing 0x0B000000#32 State.reset) 0x0B000000#32 [] ∧ decode 0x0B000000#32 = .illegal ∧
    NextIsCommand (issuing 0x00000001#32 State.reset) 0x00000001#32 [] ∧ decode 0x00000001#32 = .reserved .nop := by decide

theorem witness_CommandChecksInOrder :
    decode 0x0B000000#32 = .illegal ∧ decode 0x00000001#32 = .reserved .nop ∧
    (decode 0x05000040#32 = .cmd (.bufrd 64#20 0#4) ∧ Instr.WellFormed State.reset.maxColumns (.bufrd 64#20 0#4) = false) ∧
    (decode 0x03000050#32 = .cmd (.feed 0x50#8) ∧ Instr.WellFormed State.reset.maxColumns (.feed 0x50#8) = true ∧
      State.reset.pstate = .idle) ∧
    (decode 0x0500003F#32 = .cmd (.bufrd 63#20 0#4) ∧ Instr.WellFormed State.reset.maxColumns (.bufrd 63#20 0#4) = true) := by
  decide

theorem witness_CommandChecksInOrder_stream :
    Instr.UsesStream (.feed 0x50#8) ∧ ¬ Instr.UsesStream (.bufrd 63#20 0#4) :=
  ⟨.inr ⟨_, rfl⟩, fun h => by rcases h with h | ⟨_, h⟩ <;> cases h⟩

theorem witness_HostAccessRules :
    ({ State.reset with pending := [.read .word 252] }).pending =
      .read .word (State.reset.bcxBase + 252) :: [] ∧ (252 : Nat) < 256 ∧ 252 % 4 = 0 ∧
    AccessSize.byte ≠ .word ∧ (255 : Nat) < 256 ∧ 255 % 4 ≠ 0 ∧
    ({ State.reset with pending := [.write .half 8 0#32] }).pending =
      .write .half (State.reset.bcxBase + 8) 0#32 :: [] ∧ (8 : Nat) % 4 = 0 ∧ (8 : Nat) ≠ 4 := by decide

/-- HostAccessRules: a command word at CMD, and an access that is both narrow and misaligned. -/
theorem witness_HostAccessRules_cmd :
    (issuing 0x02000000#32 State.reset).pending = .write .word (State.reset.bcxBase + 4) 0x02000000#32 :: [] ∧
    ({ State.reset with pending := [.write .byte 5 0#32] }).pending =
      .write .byte (State.reset.bcxBase + 5) 0#32 :: [] ∧ (5 : Nat) < 256 ∧ 5 % 4 ≠ 0 := by decide

theorem witness_OutsideWindowFaults :
    (255 < (256 : Nat) ∨ 256 + 256 ≤ (255 : Nat)) ∧ (512 < (256 : Nat) ∨ 256 + 256 ≤ (512 : Nat)) ∧
    ({ State.resetWith 64 256 with pending := [.read .byte 512] }).pending = .read .byte 512 :: [] ∧
    ({ State.resetWith 64 256 with pending := [.write .word 255 0#32] }).pending = .write .word 255 0#32 :: [] := by decide

theorem witness_WaitingHoldsState : State.reset.pending = [] := by decide

theorem witness_ReadsAreIdempotent : (8 : Nat) < 256 ∧ 8 % 4 = 0 ∧
    ({ State.reset with pending := [.read .word 8, .read .word 8] }).pending =
      .read .word (State.reset.bcxBase + 8) :: .read .word (State.reset.bcxBase + 8) :: [] := by decide

theorem witness_RegisterReadValues : State.reset.maxColumns ≤ 2 ^ 20 ∧ 0x28 ≤ (0x28 : Nat) := by decide

theorem witness_malformed_control :
    ((0x00000001#32).extractLsb' 24 8 = 0x00#8 ∧ (0x00000001#32).extractLsb' 0 24 ≠ 0#24) ∧
    ((0x01800000#32).extractLsb' 24 8 = 0x01#8 ∧ (0x01800000#32).extractLsb' 0 24 ≠ 0#24) ∧
    ((0x02000001#32).extractLsb' 24 8 = 0x02#8 ∧ (0x02000001#32).extractLsb' 0 24 ≠ 0#24) := by decide

theorem witness_HardResetIsSreset : ({ at' .pix with pending := [.hardReset] }).pending = .hardReset :: [] := by decide

theorem witness_ResetStateValues : ∃ t, perform .hardReset (at' .pix) = .next t ∧ exec .sreset (at' .pix) = .next t :=
  ⟨_, rfl, rfl⟩

theorem witness_FeedInClosedStates : (at' .full).pstate = .full ∧ (at' .error).pstate = .error ∧
    (at' .idle).pstate = .idle ∧ (at' .ended).pstate = .ended := by decide

theorem witness_FeedHeaderStates : (at' .magicP).pstate = .magicP ∧ (at' .magicT).pstate = .magicT ∧
    (at' .sep0).pstate = .sep0 ∧ (at' .wsW).pstate = .wsW ∧ (at' .wsH).pstate = .wsH := by decide

/-- The byte classes of the scanner statements, at the ends of each class. -/
theorem witness_byteClasses : 0x20#8 ∈ wsBytes ∧ 0x09#8 ∈ wsBytes ∧ 0x0D#8 ∈ wsBytes ∧ 0x0A#8 ∈ eolBytes ∧
    0x0B#8 ∉ eolBytes ∧ IsDigitByte 0x30#8 ∧ IsDigitByte 0x39#8 ∧
    (0x2F#8 ∉ wsBytes ∧ 0x2F#8 ≠ 0x23#8 ∧ ¬ IsDigitByte 0x2F#8) ∧
    (0x3A#8 ∉ wsBytes ∧ 0x3A#8 ≠ 0x23#8 ∧ ¬ IsDigitByte 0x3A#8) := by decide

/-- FeedInsideWidth: 6 then '4' is 64 = MAX_COLUMNS, 6 then '5' is past it; ACC zero and not. -/
theorem witness_FeedInsideWidth :
    ({ at' .digW with acc := 6#21 }).pstate = .digW ∧ State.reset.maxColumns ≤ 2 ^ 20 ∧
    (IsDigitByte 0x34#8 ∧ (6#21).toNat * 10 + ((0x34#8).toNat - 0x30) ≤ State.reset.maxColumns) ∧
    (IsDigitByte 0x35#8 ∧ (6#21).toNat * 10 + ((0x35#8).toNat - 0x30) > State.reset.maxColumns) ∧
    (at' .digW).acc = 0#21 ∧ ({ at' .digW with acc := 6#21 }).acc ≠ 0#21 := by decide

/-- FeedInsideHeight and FeedEndByState: 12 then '8' is 128 = MAX_HEIGHT, 12 then '9' is past it. -/
theorem witness_FeedInsideHeight :
    ({ at' .digH with acc := 12#21 }).pstate = .digH ∧ (12#21).toNat ≤ 128 ∧ (128#21).toNat ≤ 128 ∧
    (IsDigitByte 0x38#8 ∧ (12#21).toNat * 10 + ((0x38#8).toNat - 0x30) ≤ 128) ∧
    (IsDigitByte 0x39#8 ∧ (12#21).toNat * 10 + ((0x39#8).toNat - 0x30) > 128) ∧
    (at' .digH).acc = 0#21 ∧ ({ at' .digH with acc := 128#21 }).acc ≠ 0#21 := by decide

theorem witness_FeedInsideComment :
    (PState.commentP, PState.pix) ∈ [(PState.commentW, PState.wsW), (.commentH, .wsH), (.commentP, .pix)] ∧
    (at' .commentP).pstate = .commentP := by decide

/-- FeedAsciiPixel: the first pixel of a row, and the last one of the bitmap. -/
theorem witness_FeedAsciiPixel :
    (let s := inPixels .ascii 3#21 2#8
     s.pstate = .pix ∧ s.fmt = .ascii ∧ s.buf.wf = true ∧ s.row.toNat < s.height.toNat ∧ s.height.toNat ≤ 128 ∧
      s.col.toNat < s.width.toNat ∧ s.width.toNat ≤ s.maxColumns ∧ s.col.toNat + 1 < s.width.toNat) ∧
    (let s := { inPixels .ascii 3#21 2#8 with row := 1#8, col := 2#24 }
     s.row.toNat < s.height.toNat ∧ s.col.toNat < s.width.toNat ∧ s.col.toNat + 1 = s.width.toNat ∧
      s.row.toNat + 1 = s.height.toNat) ∧ 0x2F#8 ≠ 0x30#8 ∧ 0x2F#8 ≠ 0x31#8 := by decide

/-- FeedBinaryPixels: a byte inside a row, a byte that ends a row with padding, the last byte of the bitmap. -/
theorem witness_FeedBinaryPixels :
    (let s := inPixels .binary 10#21 2#8
     s.pstate = .pix ∧ s.fmt = .binary ∧ s.buf.wf = true ∧ s.row.toNat < s.height.toNat ∧ s.height.toNat ≤ 128 ∧
      s.col.toNat < s.width.toNat ∧ s.width.toNat ≤ s.maxColumns ∧ s.col.toNat + 8 < s.width.toNat) ∧
    (let s := { inPixels .binary 10#21 2#8 with row := 1#8, col := 8#24 }
     s.row.toNat < s.height.toNat ∧ s.col.toNat < s.width.toNat ∧ s.width.toNat ≤ s.col.toNat + 8 ∧
      s.row.toNat + 1 = s.height.toNat) := by decide

theorem witness_FeedEndByState : (at' .pix).pstate = .pix ∧ (at' .full).pstate = .full ∧
    (at' .commentP).pstate = .commentP ∧ (at' .commentH).pstate = .commentH ∧ (at' .error).pstate = .error := by decide

theorem witness_column_range : (63#20).toNat < State.reset.maxColumns ∧ State.reset.maxColumns ≤ (64#20).toNat ∧
    (34#6).toNat < 35 ∧ 35 ≤ (35#6).toNat := by decide

theorem witness_FeedFrame : (∃ t, exec (.feed 0x50#8) (at' .magicP) = .next t) ∧
    (∃ t, exec .feedEnd (at' .magicP) = .next t) ∧ (at' .magicP).pstate ≠ .pix := ⟨⟨_, rfl⟩, ⟨_, rfl⟩, by decide⟩

/-- FeedFrame: an address that is no byte of the pixels written. -/
theorem witness_FeedFrame_address :
    let s := inPixels .binary 10#21 2#8
    ∀ k, k < 8 → s.col.toNat + k < s.width.toNat → 1 ≠ bufAddr (s.col.toNat + k) (s.row.toNat / 8) := by decide

/-- FormatErrorKeepsTheRest, from a job just started: the stream ends inside the header. -/
theorem witness_FormatErrorKeepsTheRest : ScannerOk (at' .magicP) ∧ Instr.UsesStream .feedEnd ∧
    (∃ t, exec .feedEnd (at' .magicP) = .next t ∧ t.pstate = .error) ∧ (at' .magicP).pstate ≠ .error :=
  ⟨by constructor <;> decide, .inl rfl, ⟨_, rfl, rfl⟩, by decide⟩

theorem witness_malformed_setcol_colrd :
    ((0x07001000#32).extractLsb' 24 8 = 0x07#8 ∧ (0x07001000#32).extractLsb' 8 12 ≠ 0#12) ∧
    ((0x0A000001#32).extractLsb' 24 8 = 0x0A#8 ∧ (0x0A000001#32).extractLsb' 0 20 ≠ 0#20) := by decide

theorem witness_malformed_loadcol_outrd :
    ((0x06100000#32).extractLsb' 24 8 = 0x06#8 ∧ (0x06100000#32).extractLsb' 20 4 ≠ 0#4) ∧
    ((0x09000040#32).extractLsb' 24 8 = 0x09#8 ∧ (0x09000040#32).extractLsb' 6 18 ≠ 0#18) := by decide

/-- BufrdReadsTheBuffer and LoadcolCopiesTheColumn: a column past the width. -/
theorem witness_column_past_the_width :
    OutsideWhite (inPixels .ascii 3#21 2#8) ∧ (inPixels .ascii 3#21 2#8).width.toNat ≤ (3#20).toNat ∧
    (3#20).toNat < (inPixels .ascii 3#21 2#8).maxColumns := ⟨outsideWhite_of_empty rfl, by decide, by decide⟩

/-- OutrdReadsOut: the first byte past OUTLEN. -/
theorem witness_OutrdReadsOut : OutOk State.reset ∧ State.reset.outlen.toNat ≤ (0#6).toNat := ⟨⟨by decide, by decide⟩, by decide⟩

theorem witness_EncoderCommandsFrame :
    Instr.encode ∈ [Instr.nop, .bufrd 0#20 0#4, .loadcol 0#20, .setcol 0#4 0#8, .encode, .outrd 0#6, .colrd 0#4] ∧
    ∃ t, exec .encode State.reset = .next t := ⟨by decide, ⟨_, rfl⟩⟩

theorem witness_ChunkForm : (∀ k, (h : k < 16) → (column [])[k] = 0#8) ∧
    ¬ ∀ k, (h : k < 16) → (column [0x01#8])[k] = 0#8 := by decide

/-- ThreeRepeatTwoLiteral: a triple in mid-column, and the pair before it, which begins no long run. -/
theorem witness_ThreeRepeatTwoLiteral :
    let x := column [1, 5, 5, 7, 7, 7]
    (2 < 3 ∧ RunLenIs x 3 3) ∧ ¬ LongRunAt x 1 :=
  ⟨⟨by decide, by unfold RunLenIs; decide⟩, fun ⟨r, hr, h⟩ => absurd (h.2.2.1 2 hr) (by decide)⟩

theorem witness_FirstCmdErrorIsKept :
    ∃ t, step (issuing 0x00000001#32 { State.reset with cerr := .illegalOpcode }) = .next t ∧
      (issuing 0x00000001#32 { State.reset with cerr := .illegalOpcode }).cerr ≠ .none := ⟨_, rfl, by decide⟩

theorem witness_ErrorLeftOnlyByRestart : ∃ t, step (issuing 0x03000031#32 (at' .error)) = .next t ∧
    (issuing 0x03000031#32 (at' .error)).pstate = .error := ⟨_, rfl, rfl⟩

theorem witness_FilledIsSticky :
    let s := { inPixels .ascii 3#21 2#8 with pstate := .full, filled := true, row := 2#8 }
    ScannerOk s ∧ (∃ t, step s = .next t) ∧ s.filled = true := ⟨full_scannerOk, ⟨_, rfl⟩, rfl⟩

theorem witness_ResetMeetsInvariant : 1 ≤ (64 : Nat) ∧ 64 ≤ 2 ^ 20 ∧ 0 % 256 = 0 ∧ 1 ≤ (2 ^ 20 : Nat) := by decide

/-- The premises of the five invariant statements, together, at a state in the pixels with a command pending. -/
theorem witness_invariants :
    let s := issuing 0x03000031#32 (inPixels .ascii 3#21 2#8)
    ParamsOk s ∧ BufOk s ∧ ScannerOk s ∧ OutsideWhite s ∧ OutOk s ∧ ∃ t, step s = .next t :=
  ⟨by decide, ⟨rfl, by intro cell h; cases h⟩, by constructor <;> decide, outsideWhite_of_empty rfl,
    ⟨by decide, by decide⟩, ⟨_, rfl⟩⟩

theorem witness_AssemblyNeverTruncates : assembleCommand .setcol [15, 255] = some (.setcol 15#4 255#8) := by decide

theorem witness_PseudoCommandsExpand : [0x31#8] ≠ [] ∧ (64 : Nat) ≤ 64 := by decide

end Sys2Proof.Tests
end

section
/-! PROOFS. What a command can do, said once with its guards, and the command step on a decoded word. -/

namespace Sys2Proof.Machine

/-- `Executes s i t`: command i takes s to t, with the checks of 40_control.md R103 as guards. -/
inductive Executes (s : State) : Instr → State → Prop
  | operandRange {i : Instr} (h : i.WellFormed s.maxColumns = false) : Executes s i (raiseCmdError .operandRange s)
  | sequence {i : Instr} (hi : i.UsesStream) (h : noStream s = true) : Executes s i (raiseCmdError .sequence s)
  | nop : Executes s .nop s
  | sreset : Executes s .sreset (applyReset s)
  | jobStart : Executes s .jobStart { s with
      pstate := .magicP, fmt := .none, filled := false, perr := .none, cerr := .none
      width := 0#21, height := 0#8, acc := 0#21, row := 0#8, col := 0#24, buf := [] }
  | feed (b : Byte) (h : noStream s = false) : Executes s (.feed b) (scan b s)
  | feedEnd (h : noStream s = false) : Executes s .feedEnd (scanEnd s)
  | bufrd (c : BitVec 20) (k : BitVec 4) (h : c.toNat < s.maxColumns) :
      Executes s (.bufrd c k) { s with rdata := bufRead s c.toNat k.toNat }
  | loadcol (c : BitVec 20) (h : c.toNat < s.maxColumns) :
      Executes s (.loadcol c) { s with colreg := bufColumn s c.toNat }
  | setcol (k : BitVec 4) (v : Byte) : Executes s (.setcol k v) { s with colreg := s.colreg.set k.toNat v k.isLt }
  | encode : Executes s .encode { s with
      out := outOf (encodeChunk s.colreg), outlen := BitVec.ofNat 32 (encodeChunk s.colreg).length }
  | outrd (i : BitVec 6) (h : i.toNat < Config.outCap) :
      Executes s (.outrd i) { s with rdata := s.out.toList.getD i.toNat 0#8 }
  | colrd (k : BitVec 4) : Executes s (.colrd k) { s with rdata := s.colreg.get k.toFin }

/-- Everything a command can do. -/
theorem executes_of_exec {i : Instr} {s t : State} (h : exec i s = .next t) : Executes s i t := by
  cases i with
  | nop => cases h; exact .nop
  | sreset => cases h; exact .sreset
  | jobStart => cases h; exact .jobStart
  | setcol k v => cases h; exact .setcol k v
  | encode => cases h; exact .encode
  | colrd k => cases h; exact .colrd k
  | feed b =>
    simp only [exec, execFeed] at h
    split at h <;> cases h
    · exact .sequence (.inr ⟨b, rfl⟩) ‹_›
    · exact .feed b (Bool.eq_false_iff.mpr ‹_›)
  | feedEnd =>
    simp only [exec, execFeedEnd] at h
    split at h <;> cases h
    · exact .sequence (.inl rfl) ‹_›
    · exact .feedEnd (Bool.eq_false_iff.mpr ‹_›)
  | bufrd c k =>
    simp only [exec, execBufrd, columnExists, decide_eq_true_eq] at h
    split at h <;> cases h
    · exact .bufrd c k ‹_›
    · exact .operandRange (decide_eq_false ‹_›)
  | loadcol c =>
    simp only [exec, execLoadcol, columnExists, decide_eq_true_eq] at h
    split at h <;> cases h
    · exact .loadcol c ‹_›
    · exact .operandRange (decide_eq_false ‹_›)
  | outrd n =>
    simp only [exec, execOutrd, outIndexExists, decide_eq_true_eq] at h
    split at h <;> cases h
    · exact .outrd n ‹_›
    · exact .operandRange (decide_eq_false ‹_›)

/-- A word that decodes to a command runs it (R103). -/
theorem command_of_cmd {w : Word} {i : Instr} (h : decode w = .cmd i) (s : State) : command w s = exec i s := by
  unfold command
  rw [h]

/-- Settles O6: the access is the CMD write, and the word is a command. -/
theorem stepRunsDecodedCommand : Obligations.StepRunsDecodedCommand := by
  intro s w i rest hnext hdecode
  rw [step_of_command hnext, command_of_cmd hdecode]
  rfl

end Sys2Proof.Machine
end

section
/-! PROOFS. No step writes MAX_COLUMNS or BCX_BASE (00_scope.md R9, 20_memory.md R53). -/

namespace Sys2Proof.Machine

/-- MAX_COLUMNS and BCX_BASE. -/
def parameters (s : State) : Nat × Nat := (s.maxColumns, s.bcxBase)

@[simp] theorem parameters_raiseCmdError (e : CmdCode) (s : State) :
    parameters (raiseCmdError e s) = parameters s := by simp [parameters]
@[simp] theorem parameters_applyReset (s : State) : parameters (applyReset s) = parameters s := rfl
@[simp] theorem parameters_withPending (rest : List HostEvent) (s : State) :
    parameters (withPending rest s) = parameters s := rfl
@[simp] theorem parameters_reply (v : Word) (s : State) : parameters (reply v s) = parameters s := rfl

/-- The scanner does not write the parameters. -/
theorem scannerBlind_parameters : ScannerBlind parameters := by
  constructor <;> intros <;> simp [parameters]

theorem Executes.parameters_eq {s t : State} {i : Instr} (h : Executes s i t) : parameters t = parameters s := by
  cases h with
  | operandRange | sequence => exact parameters_raiseCmdError _ _
  | feed b => exact scannerBlind_parameters.scan b s
  | feedEnd => exact scannerBlind_parameters.scanEnd s
  | nop | sreset | jobStart | bufrd | loadcol | setcol | encode | outrd | colrd => rfl

theorem parameters_of_command {w : Word} {s t : State} (h : command w s = .next t) : parameters t = parameters s := by
  obtain ⟨-, rfl⟩ | ⟨m, -, rfl⟩ | ⟨i, -, hexec⟩ := command_cases h
  · exact parameters_raiseCmdError _ _
  · exact parameters_raiseCmdError _ _
  · exact (executes_of_exec hexec).parameters_eq

theorem parameters_of_step {s t : State} (h : step s = .next t) : parameters t = parameters s := by
  obtain ⟨-, rfl⟩ | ⟨rest, -, rfl⟩ | ⟨off, rest, -, rfl⟩ | ⟨off, v, rest, -, -, rfl⟩ | ⟨w, rest, -, hcmd⟩ := step_cases h
  · rfl
  · simp
  · simp
  · simp
  · simpa using parameters_of_command hcmd

/-- Settles O49: `parameters` is kept in every case of a step. -/
theorem stepKeepsParameters : Obligations.StepKeepsParameters := fun _ _ h => Prod.mk.inj (parameters_of_step h)

end Sys2Proof.Machine
end

section
/-! PROOFS. The reset state meets each part of the invariant (70_reset_and_hazards.md R200). -/

namespace Sys2Proof.Machine

theorem bufOk_resetWith (maxColumns bcxBase : Nat) : BufOk (State.resetWith maxColumns bcxBase) :=
  ⟨Memory.wf_reset _ _, fun _ hmem => absurd hmem List.not_mem_nil⟩

/-- IDLE with every register 0 and no error: each field of the invariant is about literals. -/
theorem scannerOk_resetWith (maxColumns bcxBase : Nat) : ScannerOk (State.resetWith maxColumns bcxBase) := by
  constructor <;> simp [State.resetWith, PState.beforeHeight, PState.beforeWidth, PState.beforeType]

theorem outsideWhite_resetWith (maxColumns bcxBase : Nat) : OutsideWhite (State.resetWith maxColumns bcxBase) :=
  fun _ _ _ _ => BitVec.getLsbD_zero

theorem outOk_resetWith (maxColumns bcxBase : Nat) : OutOk (State.resetWith maxColumns bcxBase) :=
  ⟨.inl rfl, fun _ h _ => Vector.getElem_replicate h⟩

/-- Settles O48, part by part; the premises are the constraints on the parameters. -/
theorem resetMeetsInvariant : Obligations.ResetMeetsInvariant := fun maxColumns bcxBase hone hle hbase =>
  { params := ⟨hone, hle, hbase⟩
    buffer := bufOk_resetWith maxColumns bcxBase
    scanner := scannerOk_resetWith maxColumns bcxBase
    white := outsideWhite_resetWith maxColumns bcxBase
    output := outOk_resetWith maxColumns bcxBase }

end Sys2Proof.Machine
end

section
/-! PROOFS. What the scanner can do to a state, said once with its guards (41_extractor.md R121 to R136). -/

namespace Sys2Proof.Machine

/-- The transitions of the scanner that write PSTATE and nothing else; those into ENDED are FEED_END's (R136). -/
inductive Moves : PState → PState → Prop
  | magicP_magicT : Moves .magicP .magicT
  | sep0_wsW : Moves .sep0 .wsW
  | sep0_commentW : Moves .sep0 .commentW
  | wsW_commentW : Moves .wsW .commentW
  | commentW_wsW : Moves .commentW .wsW
  | wsH_commentH : Moves .wsH .commentH
  | commentH_wsH : Moves .commentH .wsH
  | commentP_pix : Moves .commentP .pix
  | commentP_ended : Moves .commentP .ended
  | pix_ended : Moves .pix .ended
  | full_ended : Moves .full .ended

/-- `Advances s t`: a fed byte or the end of the stream takes the scanner from s to t. -/
inductive Advances (s : State) : State → Prop
  | stay : Advances s s
  | move {q : PState} (h : Moves s.pstate q) : Advances s { s with pstate := q }
  | error {e : FormatCode} {a : BitVec 21} (hp : s.pstate.beforeHeight = true) (he : e ≠ .none)
      (ha : a = s.acc ∨ a = 0#21) : Advances s (raiseFormatError e { s with acc := a })
  | type {m : Fmt} (hp : s.pstate = .magicT) (hm : m ≠ .none) : Advances s { s with fmt := m, pstate := .sep0 }
  | widthDigit {n : Nat} (hp : s.pstate = .wsW ∨ s.pstate = .digW) (hn : n ≤ s.maxColumns) :
      Advances s { s with acc := BitVec.ofNat 21 n, pstate := .digW }
  | heightDigit {n : Nat} (hp : s.pstate = .wsH ∨ s.pstate = .digH) (hn : n ≤ Config.maxHeight) :
      Advances s { s with acc := BitVec.ofNat 21 n, pstate := .digH }
  | endWidth {q : PState} (hp : s.pstate = .digW) (ha : s.acc ≠ 0#21) (hq : q = .wsH ∨ q = .commentH) :
      Advances s { s with width := s.acc, acc := 0#21, pstate := q }
  | endHeight {q : PState} (hp : s.pstate = .digH) (ha : s.acc ≠ 0#21) (hq : q = .pix ∨ q = .commentP ∨ q = .ended) :
      Advances s { s with height := s.acc.setWidth 8, acc := 0#21, row := 0#8, col := 0#24, pstate := q }
  | pixels (b : Byte) (hp : s.pstate = .pix) : Advances s (scanPix b s)

theorem goUnlessError_of_ne {s : State} (p : PState) (h : s.pstate ≠ .error) :
    goUnlessError p s = { s with pstate := p } := if_neg h

/-- The states before the height token, of a stream that had no error. -/
theorem PState.ne_of_beforeHeight {p : PState} (hp : p.beforeHeight = true) :
    p ≠ .error ∧ p ≠ .pix ∧ p ≠ .full ∧ p ≠ .ended := by
  refine ⟨?_, ?_, ?_, ?_⟩ <;> rintro rfl <;> exact Bool.false_ne_true hp

/-- AccDigit raises its error or stores a value within its limit (R127). -/
theorem accDigit_cases (b : Byte) (limit : Nat) (e : FormatCode) (s : State) :
    accDigit b limit e s = raiseFormatError e s ∨
      ∃ n ≤ limit, accDigit b limit e s = { s with acc := BitVec.ofNat 21 n } := by
  simp only [accDigit]
  split
  · exact .inl rfl
  · exact .inr ⟨_, Nat.le_of_not_lt ‹_›, rfl⟩

/-- Inside a token a digit leaves PSTATE or is an error. -/
theorem goUnlessError_accDigit {s : State} {p : PState} (hp : s.pstate = p) (b : Byte) (limit : Nat) (e : FormatCode) :
    goUnlessError p (accDigit b limit e s) = accDigit b limit e s := by
  subst hp
  obtain h | ⟨n, -, h⟩ := accDigit_cases b limit e s <;> rw [h]
  · exact if_pos rfl
  · exact ite_self _

namespace Advances
variable {s : State}

/-- An error that leaves ACC. -/
theorem raise (e : FormatCode) (hp : s.pstate.beforeHeight = true) (he : e ≠ .none) :
    Advances s (raiseFormatError e s) := error (a := s.acc) hp he (.inl rfl)

/-- A digit of a token, whose accepted values advance the scanner. -/
theorem goDigit {q : PState} {limit : Nat} {e : FormatCode} {a : BitVec 21} (b : Byte)
    (hp : s.pstate.beforeHeight = true) (he : e ≠ .none) (ha : a = s.acc ∨ a = 0#21)
    (hdigit : ∀ n ≤ limit, Advances s { s with acc := BitVec.ofNat 21 n, pstate := q }) :
    Advances s (goUnlessError q (accDigit b limit e { s with acc := a })) := by
  obtain h | ⟨n, hn, h⟩ := accDigit_cases b limit e { s with acc := a } <;> rw [h]
  · exact error hp he ha
  · rw [goUnlessError_of_ne q (by exact (PState.ne_of_beforeHeight hp).1)]
    exact hdigit n hn

/-- A digit of the width, from WS_W with ACC cleared or from DIG_W. -/
theorem goDigW (b : Byte) {a : BitVec 21} (hp : s.pstate = .wsW ∨ s.pstate = .digW) (ha : a = s.acc ∨ a = 0#21) :
    Advances s (goUnlessError .digW (Machine.widthDigit b { s with acc := a })) :=
  goDigit b (by rcases hp with hp | hp <;> rw [hp] <;> rfl) (by decide) ha fun _ => widthDigit hp

/-- A digit of the height, from WS_H with ACC cleared or from DIG_H. -/
theorem goDigH (b : Byte) {a : BitVec 21} (hp : s.pstate = .wsH ∨ s.pstate = .digH) (ha : a = s.acc ∨ a = 0#21) :
    Advances s (goUnlessError .digH (Machine.heightDigit b { s with acc := a })) :=
  goDigit b (by rcases hp with hp | hp <;> rw [hp] <;> rfl) (by decide) ha fun _ => heightDigit hp

/-- The end of the width token (R128). -/
theorem goEndWidth {q : PState} (hp : s.pstate = .digW) (hq : q = .wsH ∨ q = .commentH) :
    Advances s (goUnlessError q (Machine.endWidth s)) := by
  unfold Machine.endWidth
  split
  · exact raise .zeroDimension (by rw [hp]; rfl) (by decide)
  · rw [goUnlessError_of_ne _ (by simp [hp])]
    exact endWidth hp ‹_› hq

/-- The end of the height token (R128, R136). -/
theorem goEndHeight {q : PState} (hp : s.pstate = .digH) (hq : q = .pix ∨ q = .commentP ∨ q = .ended) :
    Advances s (goUnlessError q (Machine.endHeight s)) := by
  unfold Machine.endHeight
  split
  · exact raise .zeroDimension (by rw [hp]; rfl) (by decide)
  · rw [goUnlessError_of_ne _ (by simp [hp])]
    exact endHeight hp ‹_› hq

theorem scanMagicP (b : Byte) (hp : s.pstate = .magicP) : Advances s (Machine.scanMagicP b s) := by
  unfold Machine.scanMagicP
  split
  · exact move (hp ▸ .magicP_magicT)
  · exact raise .badMagic (by rw [hp]; rfl) (by decide)

theorem scanMagicT (b : Byte) (hp : s.pstate = .magicT) : Advances s (Machine.scanMagicT b s) := by
  unfold Machine.scanMagicT
  split
  · exact type hp (by decide)
  split
  · exact type hp (by decide)
  · exact raise .unsupportedType (by rw [hp]; rfl) (by decide)

theorem scanSep0 (b : Byte) (hp : s.pstate = .sep0) : Advances s (Machine.scanSep0 b s) := by
  unfold Machine.scanSep0
  split
  · exact move (hp ▸ .sep0_wsW)
  split
  · exact move (hp ▸ .sep0_commentW)
  · exact raise .noSeparator (by rw [hp]; rfl) (by decide)

theorem scanWsW (b : Byte) (hp : s.pstate = .wsW) : Advances s (Machine.scanWsW b s) := by
  unfold Machine.scanWsW
  split
  · exact stay
  split
  · exact move (hp ▸ .wsW_commentW)
  split
  · exact goDigW b (.inl hp) (.inr rfl)
  · exact raise .badHeaderChar (by rw [hp]; rfl) (by decide)

theorem scanWsH (b : Byte) (hp : s.pstate = .wsH) : Advances s (Machine.scanWsH b s) := by
  unfold Machine.scanWsH
  split
  · exact stay
  split
  · exact move (hp ▸ .wsH_commentH)
  split
  · exact goDigH b (.inl hp) (.inr rfl)
  · exact raise .badHeaderChar (by rw [hp]; rfl) (by decide)

theorem scanDigW (b : Byte) (hp : s.pstate = .digW) : Advances s (Machine.scanDigW b s) := by
  unfold Machine.scanDigW
  split
  · rw [Machine.widthDigit, ← goUnlessError_accDigit hp]
    exact goDigW b (.inr hp) (.inl rfl)
  split
  · exact goEndWidth hp (.inl rfl)
  split
  · exact goEndWidth hp (.inr rfl)
  · exact raise .badHeaderChar (by rw [hp]; rfl) (by decide)

theorem scanDigH (b : Byte) (hp : s.pstate = .digH) : Advances s (Machine.scanDigH b s) := by
  unfold Machine.scanDigH
  split
  · rw [Machine.heightDigit, ← goUnlessError_accDigit hp]
    exact goDigH b (.inr hp) (.inl rfl)
  split
  · exact goEndHeight hp (.inl rfl)
  split
  · exact goEndHeight hp (.inr (.inl rfl))
  · exact raise .badHeaderChar (by rw [hp]; rfl) (by decide)

theorem scanComment (b : Byte) {q : PState} (h : Moves s.pstate q) : Advances s (Machine.scanComment q b s) := by
  unfold Machine.scanComment
  split
  · exact move h
  · exact stay

/-- A fed byte advances the scanner. -/
theorem scan (b : Byte) (s : State) : Advances s (Machine.scan b s) := by
  unfold Machine.scan
  split
  case h_1 | h_13 | h_14 | h_15 => exact stay
  case h_2 hp => exact scanMagicP b hp
  case h_3 hp => exact scanMagicT b hp
  case h_4 hp => exact scanSep0 b hp
  case h_5 hp => exact scanWsW b hp
  case h_6 hp => exact scanDigW b hp
  case h_7 hp => exact scanWsH b hp
  case h_8 hp => exact scanDigH b hp
  case h_9 hp => exact scanComment b (hp ▸ .commentW_wsW)
  case h_10 hp => exact scanComment b (hp ▸ .commentH_wsH)
  case h_11 hp => exact scanComment b (hp ▸ .commentP_pix)
  case h_12 hp => exact pixels b hp

/-- The end of the stream advances the scanner. -/
theorem scanEnd (s : State) : Advances s (Machine.scanEnd s) := by
  unfold Machine.scanEnd
  split
  case h_1 | h_14 | h_15 => exact stay
  case h_8 hp => exact goEndHeight hp (.inr (.inr rfl))
  case h_11 hp => exact move (hp ▸ .commentP_ended)
  case h_12 hp => exact move (hp ▸ .pix_ended)
  case h_13 hp => exact move (hp ▸ .full_ended)
  all_goals exact raise .eosInHeader (by rw [‹s.pstate = _›]; rfl) (by decide)

end Advances

end Sys2Proof.Machine
end

section
/-! PROOFS. What a step can do to the scanner's part of the state: leave it, begin again, or advance it. -/

namespace Sys2Proof.Machine

theorem mnemonicOfInstr_fieldsOf (m : Mnemonic) (w : Word) : mnemonicOfInstr (fieldsOf m w) = m := by
  cases m <;> rfl

/-- A word that decodes to a command is a legal word of the command's row (30_encoding.md R74, R77). -/
theorem and_maskOf_of_decode {w : Word} {i : Instr} (h : decode w = .cmd i) :
    w &&& maskOf (mnemonicOfInstr i) = matchOf (mnemonicOfInstr i) := by
  unfold decode at h
  split at h
  · cases h
  · rename_i m _
    split at h <;> cases h
    rename_i hlegal
    rw [mnemonicOfInstr_fieldsOf]
    simpa [reservedNonzero] using hlegal

/-- A command without operands has one word. -/
theorem eq_matchOf_of_decode {w : Word} {i : Instr} (h : decode w = .cmd i)
    (hi : maskOf (mnemonicOfInstr i) = BitVec.allOnes 32) : w = matchOf (mnemonicOfInstr i) := by
  rw [← and_maskOf_of_decode h, hi, BitVec.and_allOnes]

/-- The scanner's registers and variables, BUF and the parameters: all that the extractor reads or writes. -/
def scannerView (s : State) :
    PState × Fmt × Bool × FormatCode × BitVec 21 × BitVec 8 × BitVec 21 × BitVec 8 × BitVec 24 × Memory × Nat × Nat :=
  (s.pstate, s.fmt, s.filled, s.perr, s.width, s.height, s.acc, s.row, s.col, s.buf, s.maxColumns, s.bcxBase)

@[simp] theorem scannerView_raiseCmdError (e : CmdCode) (s : State) :
    scannerView (raiseCmdError e s) = scannerView s := by simp [scannerView]
@[simp] theorem scannerView_withPending (rest : List HostEvent) (s : State) :
    scannerView (withPending rest s) = scannerView s := rfl
@[simp] theorem scannerView_reply (v : Word) (s : State) : scannerView (reply v s) = scannerView s := rfl

/-- The extractor at the start of its work: idle after a reset, in MAGIC_P after JOB_START (R200,
40_control.md R102). -/
def restarted (p : PState) (s : State) : State := { applyReset s with pstate := p }

/-- `ScannerStep s t`: a step from s to t, as the scanner's part of the state sees it. -/
inductive ScannerStep (s t : State) : Prop
  | keep (h : scannerView t = scannerView s)
  | restart (hnext : RestartsNext s) {p : PState} (hp : p = .idle ∨ p = .magicP)
      (h : scannerView t = scannerView (restarted p s))
  | advance {u : State} (hu : scannerView u = scannerView s) (h : Advances u t)

/-- A command is one of the two restarts, or it leaves or advances the scanner. -/
theorem Executes.scannerStep {s t : State} {rest : List HostEvent} {i : Instr}
    (h : Executes (withPending rest s) i t) (hnext : i = .sreset ∨ i = .jobStart → RestartsNext s) :
    ScannerStep s t := by
  cases h with
  | operandRange | sequence => exact .keep (scannerView_raiseCmdError _ _)
  | sreset => exact .restart (hnext (.inl rfl)) (.inl rfl) rfl
  | jobStart => exact .restart (hnext (.inr rfl)) (.inr rfl) rfl
  | feed b => exact .advance (scannerView_withPending rest s) (.scan b _)
  | feedEnd => exact .advance (scannerView_withPending rest s) (.scanEnd _)
  | nop | bufrd | loadcol | setcol | encode | outrd | colrd => exact .keep rfl

/-- Everything a step can do to the scanner's part of the state. -/
theorem scannerStep_of_step {s t : State} (h : step s = .next t) : ScannerStep s t := by
  obtain ⟨-, rfl⟩ | ⟨rest, hpend, rfl⟩ | ⟨off, rest, -, rfl⟩ | ⟨off, v, rest, -, -, rfl⟩ | ⟨w, rest, hpend, hcmd⟩ :=
    step_cases h
  · exact .keep rfl
  · exact .restart ⟨rest, .inl hpend⟩ (.inl rfl) rfl
  · exact .keep (scannerView_reply _ _)
  · exact .keep (scannerView_withPending _ _)
  · obtain ⟨-, rfl⟩ | ⟨m, -, rfl⟩ | ⟨i, hdecode, hexec⟩ := command_cases hcmd
    · exact .keep (scannerView_raiseCmdError _ _)
    · exact .keep (scannerView_raiseCmdError _ _)
    · refine (executes_of_exec hexec).scannerStep fun hi => ⟨rest, .inr ?_⟩
      rcases hi with rfl | rfl
      · exact .inl (by rw [hpend, eq_matchOf_of_decode hdecode rfl]; rfl)
      · exact .inr (by rw [hpend, eq_matchOf_of_decode hdecode rfl]; rfl)

/-- What holds of a state through its scanner's part, holds when the extractor begins again, and is kept when it
advances, is kept by every step. -/
theorem kept_of_step {P : State → Prop} (view : ∀ {s t}, scannerView t = scannerView s → P s → P t)
    (restart : ∀ {s p}, p = .idle ∨ p = .magicP → P s → P (restarted p s))
    (advance : ∀ {s t}, Advances s t → P s → P t) {s t : State} (hs : P s) (h : step s = .next t) : P t := by
  cases scannerStep_of_step h with
  | keep h => exact view h hs
  | restart _ hp h => exact view h (restart hp hs)
  | advance hu h => exact advance h (view hu hs)

end Sys2Proof.Machine
end

section
/-! PROOFS. Every step keeps BUF in canonical form and inside its bounds (10_state.md R28). -/

namespace Sys2Proof.Machine

/-- What every pixel written, every position and FULL keep is kept by the eight pixels of a byte. -/
theorem setByte_keeps {P : State → Prop} (pixel : ∀ r c black {s}, P s → P (setPixel r c black s)) (b : Byte)
    {s : State} (hs : P s) : P (setByte b s) := by
  unfold setByte
  exact List.foldlRecOn _ _ hs fun _ hx _ _ => pixel _ _ _ hx

/-- What every pixel written, every position and FULL keep is kept in PIX (41_extractor.md R130 to R134). -/
theorem scanPix_keeps {P : State → Prop} (pixel : ∀ r c black {s}, P s → P (setPixel r c black s))
    (pos : ∀ r c {s}, P s → P (setPos r c s)) (full : ∀ {s}, P s → P (setFull s)) (b : Byte) {s : State} (hs : P s) :
    P (scanPix b s) := by
  have hascii : P (asciiPixel b s) := by
    simp only [asciiPixel]
    split
    · split <;> exact pos _ _ (pixel _ _ _ hs)
    · exact hs
  have hbinary : P (binaryPixel b s) := by
    simp only [binaryPixel]
    split <;> exact pos _ _ (setByte_keeps pixel b hs)
  have hfull {x : State} (hx : P x) : P (checkFull x) := by
    unfold checkFull
    split
    · exact full hx
    · exact hx
  unfold scanPix
  refine hfull ?_
  split
  · exact hascii
  · exact hbinary

theorem bufOk_of_scannerView {s t : State} (h : scannerView t = scannerView s) (hs : BufOk s) : BufOk t := by
  simp only [scannerView, Prod.mk.injEq] at h
  simpa only [BufOk, h] using hs

theorem bufOk_restarted {s : State} (p : PState) : BufOk (restarted p s) :=
  bufOk_resetWith s.maxColumns s.bcxBase

/-- Only pixel data writes BUF. -/
theorem bufOk_of_advances {s t : State} (h : Advances s t) (hs : BufOk s) : BufOk t := by
  cases h with
  | pixels b => exact scanPix_keeps (fun r c black _ => bufOk_setPixel r c black) (fun _ _ _ h => h) (fun h => h) b hs
  | stay | move | error | type | widthDigit | heightDigit | endWidth | endHeight => exact hs

/-- Settles O50: only pixel data writes BUF, and every byte written keeps it. -/
theorem stepKeepsBuffer : Obligations.StepKeepsBuffer :=
  fun _ _ => kept_of_step bufOk_of_scannerView (fun _ _ => bufOk_restarted _) bufOk_of_advances

end Sys2Proof.Machine
end

section
/-! PROOFS. FILLED is sticky and freezes BUF (10_state.md R22, 41_extractor.md R133). -/

namespace Sys2Proof.Machine

/-- Only pixel data sets FILLED or writes BUF. -/
theorem Advances.filled_buf_eq {s t : State} (h : Advances s t) (hp : s.pstate ≠ .pix) :
    t.filled = s.filled ∧ t.buf = s.buf := by
  cases h with
  | pixels b hpix => exact absurd hpix hp
  | stay | move | error | type | widthDigit | heightDigit | endWidth | endHeight => exact ⟨rfl, rfl⟩

/-- Settles O47: with FILLED set the scanner is past PIX. -/
theorem filledIsSticky : Obligations.FilledIsSticky := by
  intro s t hs hstep hfilled
  cases scannerStep_of_step hstep with
  | restart hnext => exact .inl hnext
  | keep h =>
    simp only [scannerView, Prod.mk.injEq] at h
    simp [h, hfilled]
  | @advance u hu h =>
    simp only [scannerView, Prod.mk.injEq] at hu
    have hpix : u.pstate ≠ .pix := by
      obtain ⟨hpast, -, -⟩ := hs.filledDone hfilled
      rcases hpast with hp | hp <;> simp [hu, hp]
    obtain ⟨hf, hb⟩ := h.filled_buf_eq hpix
    simp [hf, hb, hu, hfilled]

end Sys2Proof.Machine
end

section
/-! PROOFS. Every step keeps the scanner's invariant (10_state.md R21 to R23, R26, R27). -/

namespace Sys2Proof.Machine

/-- `NextPos s r c`: (r, c) is a place of the next pixel after s: further on in the row, or the row below (R23,
41_extractor.md R131, R132). -/
def NextPos (s : State) (r : BitVec 8) (c : BitVec 24) : Prop :=
  (r = s.row ∧ c.toNat < s.width.toNat ∧ (s.fmt = .binary → c.toNat % 8 = 0)) ∨ (r = s.row + 1#8 ∧ c = 0#24)

theorem setPixel_eq (r c : Nat) (black : Bool) (s : State) : ∃ m, setPixel r c black s = { s with buf := m } := by
  unfold setPixel bufWrite
  split
  · simp only
    split
    · exact ⟨_, rfl⟩
    · exact ⟨s.buf, rfl⟩
  · exact ⟨s.buf, rfl⟩

/-- Eight pixels write only BUF. -/
theorem setByte_eq (b : Byte) (s : State) : ∃ m, setByte b s = { s with buf := m } := by
  refine setByte_keeps (P := fun x => ∃ m, x = { s with buf := m }) ?_ b ⟨s.buf, rfl⟩
  rintro r c black x ⟨m, rfl⟩
  exact setPixel_eq r c black { s with buf := m }

/-- A fed byte of ASCII pixel data moves the position on, or leaves it. -/
theorem asciiPixel_eq (b : Byte) {s : State} (hc : s.col.toNat < s.width.toNat) (hfmt : s.fmt = .ascii) :
    ∃ r c m, NextPos s r c ∧ asciiPixel b s = setPos r c { s with buf := m } := by
  have hw := s.width.isLt
  simp only [asciiPixel]
  split
  · obtain ⟨m, hm⟩ := setPixel_eq s.row.toNat s.col.toNat (b == 0x31#8) s
    rw [hm]
    split
    · exact ⟨_, _, m, .inr ⟨rfl, rfl⟩, rfl⟩
    · exact ⟨_, _, m, .inl ⟨rfl, by bv_omega, by simp [hfmt]⟩, rfl⟩
  · exact ⟨_, _, s.buf, .inl ⟨rfl, hc, by simp [hfmt]⟩, rfl⟩

/-- A fed byte of binary pixel data moves the position on. -/
theorem binaryPixel_eq (b : Byte) {s : State} (hc : s.col.toNat % 8 = 0) :
    ∃ r c m, NextPos s r c ∧ binaryPixel b s = setPos r c { s with buf := m } := by
  have hw := s.width.isLt
  simp only [binaryPixel]
  obtain ⟨m, hm⟩ := setByte_eq b s
  rw [hm]
  split
  · exact ⟨_, _, m, .inr ⟨rfl, rfl⟩, rfl⟩
  · exact ⟨_, _, m, .inl ⟨rfl, by bv_omega, fun _ => by bv_omega⟩, rfl⟩

theorem scannerOk_of_scannerView {s t : State} (h : scannerView t = scannerView s) (hs : ScannerOk s) :
    ScannerOk t := by
  cases s
  cases t
  simp only [scannerView, Prod.mk.injEq] at h
  obtain ⟨rfl, rfl, rfl, rfl, rfl, rfl, rfl, rfl, rfl, rfl, rfl, rfl⟩ := h
  exact { hs with }

/-- Pixel data moves the position on, or leaves it, and FULL is checked there. -/
theorem scanPix_eq (b : Byte) {s : State} (hs : ScannerOk s) (hp : s.pstate = .pix) :
    ∃ r c m, NextPos s r c ∧ scanPix b s = checkFull (setPos r c { s with buf := m }) := by
  unfold scanPix
  split
  next hfmt =>
    obtain ⟨r, c, m, hnext, h⟩ := asciiPixel_eq b (hs.posInside hp).2 hfmt
    exact ⟨r, c, m, hnext, congrArg checkFull h⟩
  next hfmt =>
    have hbinary : s.fmt = .binary := by
      have hne : s.fmt ≠ .none := by rw [Ne, hs.fmtSet (by simp [hp]), hp]; decide
      cases h : s.fmt with
      | none => exact absurd h hne
      | ascii => exact absurd h hfmt
      | binary => rfl
    obtain ⟨r, c, m, hnext, h⟩ := binaryPixel_eq b (hs.colMultiple hbinary)
    exact ⟨r, c, m, hnext, congrArg checkFull h⟩

/-- Between two states of a stage neither is ERROR, neither is inside a token, and the same tokens are accepted. -/
structure SameStage (p q : PState) : Prop where
  fromOk : p ≠ .error ∧ p ≠ .digW ∧ p ≠ .digH
  toOk : q ≠ .error ∧ q ≠ .digW ∧ q ≠ .digH
  type : p.beforeType = q.beforeType
  width : p.beforeWidth = q.beforeWidth
  height : p.beforeHeight = q.beforeHeight

theorem Moves.sameStage {p q : PState} (h : Moves p q) : SameStage p q := by
  cases h <;> constructor <;> decide

/-- A state as far on in the stream, with a position that fits it. -/
theorem ScannerOk.atStage {s : State} (hs : ScannerOk s) {q : PState} {f : Bool} {r : BitVec 8} {c : BitVec 24}
    {m : Memory} (hstage : SameStage s.pstate q) (hr : r.toNat ≤ s.height.toNat)
    (hc : c.toNat < s.width.toNat ∨ c = 0#24) (h8 : s.fmt = .binary → c.toNat % 8 = 0)
    (hzero : q ≠ .pix → q ≠ .full → q ≠ .ended → r = 0#8 ∧ c = 0#24)
    (hinside : q = .pix → r.toNat < s.height.toNat ∧ c.toNat < s.width.toNat)
    (hfull : q = .full → f = true)
    (hdone : f = true → (q = .full ∨ q = .ended) ∧ r = s.height ∧ c = 0#24) :
    ScannerOk { s with pstate := q, filled := f, row := r, col := c, buf := m } := by
  obtain ⟨⟨herr, hdigW, hdigH⟩, ⟨herr', hdigW', hdigH'⟩, htype, hwidth, hheight⟩ := hstage
  exact { hs with
    perrIffError := by simpa [herr, herr'] using hs.perrIffError
    accLeWidth := fun h => absurd h hdigW'
    accLeHeight := fun h => absurd h hdigH'
    accZero := fun _ _ _ => hs.accZero hdigW hdigH herr
    fmtSet := fun _ => htype ▸ hs.fmtSet herr
    widthSet := fun _ => hwidth ▸ hs.widthSet herr
    heightSet := fun _ => hheight ▸ hs.heightSet herr
    heightError := fun h => absurd h herr'
    posZero := hzero
    posInside := hinside
    rowLe := hr
    colMultiple := h8
    colInside := hc
    fullFilled := hfull
    filledDone := hdone }

theorem ScannerOk.not_filled {s : State} (hs : ScannerOk s) (hfull : s.pstate ≠ .full) (hended : s.pstate ≠ .ended) :
    s.filled = false := by
  by_contra hfilled
  obtain ⟨hp | hp, -⟩ := hs.filledDone (by simpa using hfilled)
  · exact hfull hp
  · exact hended hp

/-- Pixel data keeps the position inside the bitmap, or ends with all rows filled. -/
theorem scannerOk_scanPix (b : Byte) {s : State} (hs : ScannerOk s) (hp : s.pstate = .pix) :
    ScannerOk (scanPix b s) := by
  obtain ⟨r, c, m, hnext, h⟩ := scanPix_eq b hs hp
  rw [h]
  obtain ⟨hrow, hcol⟩ := hs.posInside hp
  have hheight := hs.heightLe
  have hc : c.toNat < s.width.toNat ∧ (s.fmt = .binary → c.toNat % 8 = 0) := by
    obtain ⟨-, hc⟩ | ⟨-, rfl⟩ := hnext
    · exact hc
    · exact ⟨by bv_omega, fun _ => rfl⟩
  have hr : r.toNat ≤ s.height.toNat := by
    obtain ⟨rfl, -⟩ | ⟨rfl, -⟩ := hnext
    · exact hrow.le
    · bv_omega
  unfold checkFull
  split
  next hfull =>
    change r = s.height at hfull
    have hc0 : c = 0#24 := by
      obtain ⟨rfl, -⟩ | ⟨-, hc0⟩ := hnext
      · bv_omega
      · exact hc0
    exact hs.atStage (q := .full) (f := true) (by rw [hp]; constructor <;> decide) hr (.inl hc.1) hc.2 (by simp) nofun
      (fun _ => rfl) fun _ => ⟨.inl rfl, hfull, hc0⟩
  next hfull =>
    change r ≠ s.height at hfull
    have hlt : r.toNat < s.height.toNat := by bv_omega
    exact hs.atStage (by rw [hp]; constructor <;> decide) hr (.inl hc.1) hc.2 (fun h => absurd hp h)
      (fun _ => ⟨hlt, hc.1⟩) (by simp [hp]) (by simp [hs.not_filled, hp])

theorem Moves.eq_commentP {p : PState} (h : Moves p .pix) : p = .commentP := by cases h; rfl

theorem Moves.ne_full {p q : PState} (h : Moves p q) : q ≠ .full := by cases h <;> decide

theorem Moves.eq_ended {p q : PState} (h : Moves p q) (hp : p = .full ∨ p = .ended) : q = .ended := by
  rcases hp with rfl | rfl <;> cases h
  rfl

theorem Moves.from_header {p q : PState} (h : Moves p q) (hq : q ≠ .ended) : p ≠ .pix ∧ p ≠ .full ∧ p ≠ .ended := by
  refine ⟨?_, ?_, ?_⟩ <;> rintro rfl <;> cases h <;> exact hq rfl

/-- A transition that writes only PSTATE goes into pixel data from its start, and into ENDED from wherever it is. -/
theorem scannerOk_move {s : State} {q : PState} (hs : ScannerOk s) (h : Moves s.pstate q) :
    ScannerOk { s with pstate := q } := by
  refine hs.atStage h.sameStage hs.rowLe hs.colInside hs.colMultiple (fun _ _ hended => ?zero) (fun hpix => ?inside)
    (fun hfull => ?full) (fun hfilled => ?done)
  case zero =>
    obtain ⟨hpix, hfull, hended'⟩ := h.from_header hended
    exact hs.posZero hpix hfull hended'
  case inside =>
    subst hpix
    have hp := h.eq_commentP
    obtain ⟨hrow, hcol⟩ := hs.posZero (by simp [hp]) (by simp [hp]) (by simp [hp])
    have hwidth : s.width ≠ 0#21 := by rw [Ne, hs.widthSet (by simp [hp]), hp]; decide
    have hheight : s.height ≠ 0#8 := by rw [Ne, hs.heightSet (by simp [hp]), hp]; decide
    constructor <;> bv_omega
  case full => exact absurd hfull h.ne_full
  case done =>
    obtain ⟨hp, hpos⟩ := hs.filledDone hfilled
    exact ⟨.inr (h.eq_ended hp), hpos⟩

/-- In the header HEIGHT and the position are 0 and FILLED is clear (R21 to R23). -/
theorem ScannerOk.header {s : State} (hs : ScannerOk s) (hp : s.pstate.beforeHeight = true) :
    s.height = 0#8 ∧ s.row = 0#8 ∧ s.col = 0#24 ∧ s.filled = false := by
  obtain ⟨herr, hpix, hfull, hended⟩ := PState.ne_of_beforeHeight hp
  obtain ⟨hrow, hcol⟩ := hs.posZero hpix hfull hended
  exact ⟨(hs.heightSet herr).mpr hp, hrow, hcol, hs.not_filled hfull hended⟩

/-- An error in the header leaves HEIGHT and the position 0. -/
theorem scannerOk_error {s : State} {e : FormatCode} {a : BitVec 21} (hs : ScannerOk s)
    (hp : s.pstate.beforeHeight = true) (he : e ≠ .none) (ha : a = s.acc ∨ a = 0#21) :
    ScannerOk (raiseFormatError e { s with acc := a }) := by
  obtain ⟨hheight, hrow, hcol, hfilled⟩ := hs.header hp
  exact { hs with
    perrIffError := by simp [he]
    accLe := by
      obtain rfl | rfl := ha
      · exact hs.accLe
      · exact Nat.zero_le _
    accLeWidth := nofun
    accLeHeight := nofun
    accZero := fun _ _ h => absurd rfl h
    fmtSet := fun h => absurd rfl h
    widthSet := fun h => absurd rfl h
    heightSet := fun h => absurd rfl h
    heightError := fun _ => hheight
    posZero := fun _ _ _ => ⟨hrow, hcol⟩
    posInside := nofun
    fullFilled := nofun
    filledDone := by simp [hfilled] }

/-- From one state of the header to another: type, width, ACC and PSTATE have to fit each other. -/
theorem scannerOk_header {s : State} {q : PState} {m : Fmt} {w a : BitVec 21} (hs : ScannerOk s)
    (hp : s.pstate.beforeHeight = true) (hq : q.beforeHeight = true) (hm : m = .none ↔ q.beforeType = true)
    (hw : w.toNat ≤ s.maxColumns) (hw0 : w = 0#21 ↔ q.beforeWidth = true) (haw : q = .digW → a.toNat ≤ s.maxColumns)
    (hah : q = .digH → a.toNat ≤ Config.maxHeight) (ha0 : q ≠ .digW → q ≠ .digH → a = 0#21) :
    ScannerOk { s with pstate := q, fmt := m, width := w, acc := a } := by
  obtain ⟨hheight, hrow, hcol, hfilled⟩ := hs.header hp
  obtain ⟨herr, -, -, -⟩ := PState.ne_of_beforeHeight hp
  obtain ⟨herr', hpix', hfull', -⟩ := PState.ne_of_beforeHeight hq
  exact { hs with
    perrIffError := by simpa [herr, herr'] using hs.perrIffError
    widthLe := hw
    accLe := by
      by_cases hdigW : q = .digW
      · exact le_max_of_le_left (haw hdigW)
      by_cases hdigH : q = .digH
      · exact le_max_of_le_right (hah hdigH)
      · simp [ha0 hdigW hdigH]
    accLeWidth := haw
    accLeHeight := hah
    accZero := fun hdigW hdigH _ => ha0 hdigW hdigH
    fmtSet := fun _ => hm
    widthSet := fun _ => hw0
    heightSet := fun _ => by simp [hheight, hq]
    heightError := fun h => absurd h herr'
    posZero := fun _ _ _ => ⟨hrow, hcol⟩
    posInside := fun h => absurd h hpix'
    colMultiple := fun _ => by simp [hcol]
    colInside := .inr hcol
    fullFilled := fun h => absurd h hfull'
    filledDone := by simp [hfilled] }

/-- HEIGHT is accepted, with pixel data still to begin. -/
theorem scannerOk_commentP {s : State} (hs : ScannerOk s) (hp : s.pstate = .digH) (ha : s.acc ≠ 0#21) :
    ScannerOk { s with height := s.acc.setWidth 8, acc := 0#21, row := 0#8, col := 0#24, pstate := .commentP } := by
  have hacc := hs.accLeHeight hp
  have hto : (s.acc.setWidth 8).toNat = s.acc.toNat := by
    rw [BitVec.toNat_setWidth]
    exact Nat.mod_eq_of_lt (hacc.trans_lt (by decide))
  have hheight : s.acc.setWidth 8 ≠ 0#8 := by bv_omega
  have herr : s.pstate ≠ .error := by simp [hp]
  have hfmt : s.fmt ≠ .none := by rw [Ne, hs.fmtSet herr, hp]; decide
  have hwidth : s.width ≠ 0#21 := by rw [Ne, hs.widthSet herr, hp]; decide
  have hfilled := hs.not_filled (by simp [hp]) (by simp [hp])
  exact { hs with
    perrIffError := by simpa [hp] using hs.perrIffError
    heightLe := hto ▸ hacc
    accLe := Nat.zero_le _
    accLeWidth := nofun
    accLeHeight := nofun
    accZero := fun _ _ _ => rfl
    fmtSet := fun _ => iff_of_false hfmt Bool.false_ne_true
    widthSet := fun _ => iff_of_false hwidth Bool.false_ne_true
    heightSet := fun _ => iff_of_false hheight Bool.false_ne_true
    heightError := nofun
    posZero := fun _ _ _ => ⟨rfl, rfl⟩
    posInside := nofun
    rowLe := Nat.zero_le _
    colMultiple := fun _ => rfl
    colInside := .inr rfl
    fullFilled := nofun
    filledDone := by simp [hfilled] }

theorem scannerOk_endHeight {s : State} {q : PState} (hs : ScannerOk s) (hp : s.pstate = .digH) (ha : s.acc ≠ 0#21)
    (hq : q = .pix ∨ q = .commentP ∨ q = .ended) :
    ScannerOk { s with height := s.acc.setWidth 8, acc := 0#21, row := 0#8, col := 0#24, pstate := q } := by
  have hcomment := scannerOk_commentP hs hp ha
  obtain rfl | rfl | rfl := hq
  · exact scannerOk_move hcomment .commentP_pix
  · exact hcomment
  · exact scannerOk_move hcomment .commentP_ended

theorem scannerOk_type {s : State} {m : Fmt} (hs : ScannerOk s) (hp : s.pstate = .magicT) (hm : m ≠ .none) :
    ScannerOk { s with fmt := m, pstate := .sep0 } :=
  scannerOk_header hs (by rw [hp]; rfl) rfl (iff_of_false hm (by decide)) hs.widthLe
    (iff_of_true ((hs.widthSet (by simp [hp])).mpr (by rw [hp]; rfl)) rfl) nofun nofun
    fun _ _ => hs.accZero (by simp [hp]) (by simp [hp]) (by simp [hp])

theorem toNat_ofNat_le (w n : Nat) : (BitVec.ofNat w n).toNat ≤ n := by
  rw [BitVec.toNat_ofNat]
  exact Nat.mod_le _ _

theorem scannerOk_widthDigit {s : State} {n : Nat} (hs : ScannerOk s)
    (hp : s.pstate = .wsW ∨ s.pstate = .digW) (hn : n ≤ s.maxColumns) :
    ScannerOk { s with acc := BitVec.ofNat 21 n, pstate := .digW } := by
  obtain ⟨herr, htype, hwidth, hheight⟩ : s.pstate ≠ .error ∧ s.pstate.beforeType = PState.beforeType .digW ∧
      s.pstate.beforeWidth = PState.beforeWidth .digW ∧ s.pstate.beforeHeight = true := by
    rcases hp with hp | hp <;> rw [hp] <;> decide
  exact scannerOk_header hs hheight rfl (htype ▸ hs.fmtSet herr) hs.widthLe (hwidth ▸ hs.widthSet herr)
    (fun _ => (toNat_ofNat_le 21 n).trans hn) nofun (fun h => absurd rfl h)

theorem scannerOk_heightDigit {s : State} {n : Nat} (hs : ScannerOk s)
    (hp : s.pstate = .wsH ∨ s.pstate = .digH) (hn : n ≤ Config.maxHeight) :
    ScannerOk { s with acc := BitVec.ofNat 21 n, pstate := .digH } := by
  obtain ⟨herr, htype, hwidth, hheight⟩ : s.pstate ≠ .error ∧ s.pstate.beforeType = PState.beforeType .digH ∧
      s.pstate.beforeWidth = PState.beforeWidth .digH ∧ s.pstate.beforeHeight = true := by
    rcases hp with hp | hp <;> rw [hp] <;> decide
  exact scannerOk_header hs hheight rfl (htype ▸ hs.fmtSet herr) hs.widthLe (hwidth ▸ hs.widthSet herr)
    nofun (fun _ => (toNat_ofNat_le 21 n).trans hn) (fun _ h => absurd rfl h)

theorem scannerOk_endWidth {s : State} {q : PState} (hs : ScannerOk s) (hp : s.pstate = .digW) (ha : s.acc ≠ 0#21)
    (hq : q = .wsH ∨ q = .commentH) : ScannerOk { s with width := s.acc, acc := 0#21, pstate := q } := by
  obtain ⟨htype, hwidth, hheight, hdigW, hdigH⟩ : q.beforeType = false ∧ q.beforeWidth = false ∧
      q.beforeHeight = true ∧ q ≠ .digW ∧ q ≠ .digH := by
    rcases hq with rfl | rfl <;> decide
  have hfmt : s.fmt ≠ .none := by rw [Ne, hs.fmtSet (by simp [hp]), hp]; decide
  exact scannerOk_header hs (by rw [hp]; rfl) hheight (iff_of_false hfmt (by simp [htype])) (hs.accLeWidth hp)
    (iff_of_false ha (by simp [hwidth])) (fun h => absurd h hdigW) (fun h => absurd h hdigH) fun _ _ => rfl

theorem scannerOk_of_advances {s t : State} (h : Advances s t) (hs : ScannerOk s) : ScannerOk t := by
  cases h with
  | stay => exact hs
  | move h => exact scannerOk_move hs h
  | error hp he ha => exact scannerOk_error hs hp he ha
  | type hp hm => exact scannerOk_type hs hp hm
  | pixels b hp => exact scannerOk_scanPix b hs hp
  | widthDigit hp hn => exact scannerOk_widthDigit hs hp hn
  | heightDigit hp hn => exact scannerOk_heightDigit hs hp hn
  | endWidth hp ha hq => exact scannerOk_endWidth hs hp ha hq
  | endHeight hp ha hq => exact scannerOk_endHeight hs hp ha hq

theorem scannerOk_restarted {s : State} {p : PState} (hp : p = .idle ∨ p = .magicP) : ScannerOk (restarted p s) := by
  have hreset := scannerOk_of_scannerView (s := State.resetWith s.maxColumns s.bcxBase) (t := applyReset s) rfl
    (scannerOk_resetWith s.maxColumns s.bcxBase)
  obtain rfl | rfl := hp
  · exact hreset
  · exact scannerOk_header hreset rfl rfl (iff_of_true rfl rfl) hreset.widthLe (iff_of_true rfl rfl)
      nofun nofun fun _ _ => rfl

/-- Settles O51: each way the scanner advances keeps its invariant. -/
theorem stepKeepsScanner : Obligations.StepKeepsScanner :=
  fun _ _ _ => kept_of_step scannerOk_of_scannerView (fun hp _ => scannerOk_restarted hp) scannerOk_of_advances

end Sys2Proof.Machine
end

section
/-! PROOFS. Pixels outside the declared dimensions stay white (10_state.md R29, 41_extractor.md R134, R137). -/

namespace Sys2Proof.Machine

theorem pixel_of_scannerView {s t : State} (h : scannerView t = scannerView s) (r c : Nat) :
    pixel t r c = pixel s r c := by
  simp only [scannerView, Prod.mk.injEq] at h
  exact pixel_of_buf (by simp [h]) r c

theorem outsideWhite_of_scannerView {s t : State} (h : scannerView t = scannerView s) (hs : OutsideWhite s) :
    OutsideWhite t := by
  intro r c hr hout
  rw [pixel_of_scannerView h]
  simp only [scannerView, Prod.mk.injEq] at h
  exact hs r c hr (by simpa [h] using hout)

theorem outsideWhite_restarted {s : State} (p : PState) : OutsideWhite (restarted p s) :=
  outsideWhite_resetWith s.maxColumns s.bcxBase

/-- What a pixel written inside the declared dimensions needs, and keeps. -/
structure Paintable (s : State) : Prop where
  buffer : BufOk s
  widthLe : s.width.toNat ≤ s.maxColumns
  heightLe : s.height.toNat ≤ Config.maxHeight
  white : OutsideWhite s

theorem outsideWhite_setPixel (r c : Nat) (black : Bool) {s : State} (hs : Paintable s) :
    OutsideWhite (setPixel r c black s) := by
  intro r' c' hr' hout
  simp only [setPixel_height, setPixel_width] at hout
  by_cases hsame : r' = r ∧ c' = c
  · obtain ⟨rfl, rfl⟩ := hsame
    rw [setPixel_outside black hout]
    exact hs.white r' c' hr' hout
  · rw [pixel_setPixel_other black hs.buffer.1 hr' hs.heightLe hs.widthLe hsame]
    exact hs.white r' c' hr' hout

theorem paintable_setPixel (r c : Nat) (black : Bool) {s : State} (hs : Paintable s) :
    Paintable (setPixel r c black s) where
  buffer := bufOk_setPixel r c black hs.buffer
  widthLe := by simpa using hs.widthLe
  heightLe := by simpa using hs.heightLe
  white := outsideWhite_setPixel r c black hs

/-- Before the width token, or the height token, the whole of BUF lies outside the declared dimensions. -/
theorem outsideWhite_of_blank {s t : State} (hs : OutsideWhite s) (hbuf : t.buf = s.buf)
    (hblank : s.width = 0#21 ∨ s.height = 0#8) : OutsideWhite t := by
  intro r c hr _
  rw [pixel_of_buf hbuf]
  refine hs r c hr ?_
  obtain h | h := hblank <;> simp [h]

theorem outsideWhite_of_advances {s t : State} (h : Advances s t) (hscan : ScannerOk s) (hbuf : BufOk s)
    (hs : OutsideWhite s) : OutsideWhite t := by
  cases h with
  | endWidth hp =>
    exact outsideWhite_of_blank hs rfl (.inl ((hscan.widthSet (by simp [hp])).mpr (by rw [hp]; rfl)))
  | endHeight hp =>
    exact outsideWhite_of_blank hs rfl (.inr ((hscan.heightSet (by simp [hp])).mpr (by rw [hp]; rfl)))
  | pixels b =>
    exact (scanPix_keeps paintable_setPixel (fun _ _ _ h => { h with }) (fun h => { h with }) b
      ⟨hbuf, hscan.widthLe, hscan.heightLe, hs⟩).white
  | stay | move | error | type | widthDigit | heightDigit => exact hs

/-- Settles O52: the dimensions are accepted over a white BUF, and pixel data writes inside them. The invariants it
needs of BUF and of the scanner are kept with it. -/
theorem stepKeepsOutsideWhite : Obligations.StepKeepsOutsideWhite := by
  intro s t _ hbuf hscan hwhite hstep
  refine (kept_of_step (P := fun s => BufOk s ∧ ScannerOk s ∧ OutsideWhite s) ?_ ?_ ?_ ⟨hbuf, hscan, hwhite⟩ hstep).2.2
  · rintro s t h ⟨hbuf, hscan, hwhite⟩
    exact ⟨bufOk_of_scannerView h hbuf, scannerOk_of_scannerView h hscan, outsideWhite_of_scannerView h hwhite⟩
  · rintro s p hp -
    exact ⟨bufOk_restarted p, scannerOk_restarted hp, outsideWhite_restarted p⟩
  · rintro s t h ⟨hbuf, hscan, hwhite⟩
    exact ⟨bufOk_of_advances h hbuf, scannerOk_of_advances h hscan, outsideWhite_of_advances h hscan hbuf hwhite⟩

end Sys2Proof.Machine
end

section
/-! PROOFS. OUTLEN stays legal and OUT zero past it: the length of a payload (42_encoder.md R160 to R166). -/

namespace Sys2Proof.Machine

theorem leading_le_length (b : Byte) (xs : List Byte) : leading b xs ≤ xs.length := by
  induction xs with
  | nil => exact le_rfl
  | cons x xs ih =>
    unfold leading
    split
    · exact Nat.succ_le_succ ih
    · exact Nat.zero_le _

theorem runLen_le_length (xs : List Byte) : runLen xs ≤ xs.length := by
  cases xs with
  | nil => exact le_rfl
  | cons x xs => exact Nat.succ_le_succ (leading_le_length x xs)

/-- A literal-run stops at the end of the column or where a run of more than 2 begins (R164). -/
theorem literalRest_stops {taken : Nat} {xs : List Byte} (h : taken + xs.length ≤ Config.colBytes) :
    xs.drop (literalRest taken xs) = [] ∨ 2 < runLen (xs.drop (literalRest taken xs)) := by
  induction xs generalizing taken with
  | nil => exact .inl rfl
  | cons x xs ih =>
    rw [List.length_cons] at h
    unfold literalRest
    split
    · exact ih (by omega)
    · exact .inr (by rw [List.drop_zero]; omega)

theorem payloadFrom_nil (fuel : Nat) : payloadFrom fuel [] = [] := by cases fuel <;> rfl

/-- A payload is at most one byte longer than its column, and no longer than it where a run of more than 2 begins: only
a literal-run adds a byte, and what follows one is such a run (R166). -/
theorem length_payloadFrom_le (fuel : Nat) {xs : List Byte} (h : xs.length ≤ Config.colBytes) :
    (payloadFrom fuel xs).length ≤ xs.length + 1 ∧
      (xs = [] ∨ 2 < runLen xs → (payloadFrom fuel xs).length ≤ xs.length) := by
  induction fuel generalizing xs with
  | zero => exact ⟨Nat.zero_le _, fun _ => Nat.zero_le _⟩
  | succ fuel ih =>
    cases xs with
    | nil => exact ⟨Nat.zero_le _, fun _ => le_rfl⟩
    | cons x xs =>
      have hrun := runLen_le_length (x :: xs)
      simp only [payloadFrom]
      split
      next hlong =>
        have hrest := (ih (xs := (x :: xs).drop (runLen (x :: xs))) (by rw [List.length_drop]; omega)).1
        simp only [List.length_cons, List.length_drop] at *
        omega
      next hshort =>
        rw [List.length_cons] at h
        have hstop := literalRest_stops (taken := 1) (xs := xs) (by omega)
        have hrest := (ih (xs := xs.drop (literalRest 1 xs)) (by rw [List.length_drop]; omega)).2 hstop
        refine ⟨?_, fun hfirst => absurd (hfirst.resolve_left (List.cons_ne_nil x xs)) hshort⟩
        simp only [List.drop_succ_cons, List.length_cons, List.length_append, List.length_take, List.length_drop] at *
        omega

theorem two_le_length_payloadFrom (fuel : Nat) (x : Byte) (xs : List Byte) :
    2 ≤ (payloadFrom (fuel + 1) (x :: xs)).length := by
  simp only [payloadFrom]
  split <;> simp

theorem length_payload (c : Vector Byte Config.colBytes) : 2 ≤ (payload c).length ∧ (payload c).length ≤ 17 := by
  have hlen : c.toList.length = Config.colBytes := Vector.length_toList
  refine ⟨?_, (length_payloadFrom_le Config.colBytes hlen.le).1.trans (by rw [hlen])⟩
  unfold payload
  cases hc : c.toList with
  | nil => simp [hc] at hlen
  | cons x xs => exact two_le_length_payloadFrom 15 x xs

/-- A chunk is 1 byte, or 5 to 20 (R166). -/
theorem length_encodeChunk (c : Vector Byte Config.colBytes) :
    (encodeChunk c).length = 1 ∨ 5 ≤ (encodeChunk c).length ∧ (encodeChunk c).length ≤ 20 := by
  have h := length_payload c
  unfold encodeChunk
  split
  · exact .inl rfl
  · simp only [lengthBytes, List.length_append, List.length_cons, List.length_nil]
    omega

/-- OUT past the chunk is 0 (R162). -/
theorem getElem_outOf_of_le (chunk : List Byte) {i : Nat} (hi : i < Config.outCap) (h : chunk.length ≤ i) :
    (outOf chunk)[i] = 0#8 := by
  simp [outOf, h]

/-- ENCODE leaves the chunk of COLREG in OUT (R152). -/
theorem outOk_encode (s : State) : OutOk { s with
    out := outOf (encodeChunk s.colreg), outlen := BitVec.ofNat 32 (encodeChunk s.colreg).length } := by
  have hlen := length_encodeChunk s.colreg
  have hto : (BitVec.ofNat 32 (encodeChunk s.colreg).length).toNat = (encodeChunk s.colreg).length := by
    rw [BitVec.toNat_ofNat]
    exact Nat.mod_eq_of_lt (by omega)
  simp only [OutOk, hto]
  exact ⟨.inr hlen, fun i hi h => getElem_outOf_of_le _ hi h⟩

/-- OUTLEN and OUT. -/
def outputView (s : State) : Word × Vector Byte Config.outCap := (s.outlen, s.out)

/-- The scanner does not write OUT. -/
theorem scannerBlind_outputView : ScannerBlind outputView := by
  constructor <;> intros <;> simp [outputView]

theorem outOk_of_outputView {s t : State} (h : outputView t = outputView s) (hs : OutOk s) : OutOk t := by
  simp only [outputView, Prod.mk.injEq] at h
  simpa only [OutOk, h] using hs

theorem outOk_raiseCmdError (e : CmdCode) {s : State} (hs : OutOk s) : OutOk (raiseCmdError e s) :=
  outOk_of_outputView (by simp [outputView]) hs

theorem Executes.outOk {s t : State} {i : Instr} (h : Executes s i t) (hs : OutOk s) : OutOk t := by
  cases h with
  | operandRange | sequence => exact outOk_raiseCmdError _ hs
  | sreset => exact outOk_resetWith s.maxColumns s.bcxBase
  | feed b => exact outOk_of_outputView (scannerBlind_outputView.scan b s) hs
  | feedEnd => exact outOk_of_outputView (scannerBlind_outputView.scanEnd s) hs
  | encode => exact outOk_encode s
  | nop | jobStart | bufrd | loadcol | setcol | outrd | colrd => exact hs

theorem outOk_of_command {w : Word} {s t : State} (h : command w s = .next t) (hs : OutOk s) : OutOk t := by
  obtain ⟨-, rfl⟩ | ⟨m, -, rfl⟩ | ⟨i, -, hexec⟩ := command_cases h
  · exact outOk_raiseCmdError _ hs
  · exact outOk_raiseCmdError _ hs
  · exact (executes_of_exec hexec).outOk hs

/-- Settles O53: only a reset and ENCODE write OUT, and a chunk has a legal length. -/
theorem stepKeepsOutput : Obligations.StepKeepsOutput := by
  intro s t hs hstep
  obtain ⟨-, rfl⟩ | ⟨rest, -, rfl⟩ | ⟨off, rest, -, rfl⟩ | ⟨off, v, rest, -, -, rfl⟩ | ⟨w, rest, -, hcmd⟩ :=
    step_cases hstep
  · exact hs
  · exact outOk_resetWith s.maxColumns s.bcxBase
  · exact hs
  · exact hs
  · exact outOk_of_command hcmd hs

end Sys2Proof.Machine
end

section
/-! PROOFS. What the registers of the window read (10_state.md R20 to R23, R26). -/

namespace Sys2Proof.Machine

/-- The offsets from 0x28 on are reserved (R20). -/
theorem at_reserved {off : Nat} (h : 0x28 ≤ off) : Reg.at off = none := by
  simp only [Reg.at, List.find?_eq_none, beq_iff_eq]
  intro r _ hr
  cases r <;> simp only [Reg.offset] at hr <;> omega

/-- Settles O13: each offset names its register, and none from 0x28 on does. -/
theorem registerReadValues : Obligations.RegisterReadValues := by
  intro s
  refine ⟨rfl, rfl, rfl, ?rdata, ?width, ?height, rfl, rfl, rfl, ?maxcol, ?reserved⟩
  case rdata | width | height => exact BitVec.toNat_setWidth_of_le (by decide)
  case maxcol =>
    intro h
    rw [show readOffset 0x24 s = BitVec.ofNat 32 s.maxColumns from rfl, BitVec.toNat_ofNat]
    exact Nat.mod_eq_of_lt (h.trans_lt (by decide))
  case reserved =>
    intro off h
    simp only [readOffset, at_reserved h]

/-! The fields of STATUS (R22), each read at its place. -/

section
open BitVec

/-- A field above the last one of a word. -/
theorem extractLsb'_above {v w start len : Nat} {hi : BitVec v} {lo : BitVec w} {x : BitVec len} (h : w ≤ start)
    (hx : hi.extractLsb' (start - w) len = x) : (hi ++ lo).extractLsb' start len = x :=
  (extractLsb'_append_eq_of_le h).trans hx

theorem statusWord_pstate (s : State) : (statusWord s).extractLsb' 0 4 = s.pstate.code :=
  extractLsb'_append_eq_right

theorem statusWord_fmt (s : State) : (statusWord s).extractLsb' 4 2 = s.fmt.code :=
  extractLsb'_above (by decide) extractLsb'_append_eq_right

theorem statusWord_filledBit (s : State) : (statusWord s).extractLsb' 6 1 = ofBool s.filled := by
  iterate 2 refine extractLsb'_above (by decide) ?_
  exact extractLsb'_append_eq_right

theorem statusWord_eerrBit (s : State) : (statusWord s).extractLsb' 7 1 = eerr := by
  iterate 3 refine extractLsb'_above (by decide) ?_
  exact extractLsb'_append_eq_right

theorem statusWord_perr (s : State) : (statusWord s).extractLsb' 8 4 = s.perr.code := by
  iterate 4 refine extractLsb'_above (by decide) ?_
  exact extractLsb'_append_eq_right

theorem statusWord_cerr (s : State) : (statusWord s).extractLsb' 12 3 = s.cerr.code := by
  iterate 5 refine extractLsb'_above (by decide) ?_
  exact extractLsb'_append_eq_right

theorem statusWord_reserved (s : State) : (statusWord s).extractLsb' 15 17 = 0#17 := by
  iterate 6 refine extractLsb'_above (by decide) ?_
  exact extractLsb'_eq_self

theorem statusWord_filled (s : State) : (statusWord s).getLsbD 6 = s.filled := by
  simpa using congrArg (getLsbD · 0) (statusWord_filledBit s)

theorem statusWord_eerr (s : State) : (statusWord s).getLsbD 7 = false := by
  simpa [eerr] using congrArg (getLsbD · 0) (statusWord_eerrBit s)

theorem posWord_row (s : State) : (posWord s).extractLsb' 24 8 = s.row := extractLsb'_append_eq_left

theorem posWord_col (s : State) : (posWord s).extractLsb' 0 24 = s.col := extractLsb'_append_eq_right

end

/-! The codes of the model are those of the tables (R22, R26, 60_exceptions.md R181, R182). -/

theorem code_mem_pstateCodes (p : PState) : (p, p.code) ∈ pstateCodes := by cases p <;> decide

theorem code_mem_fmtCodes (m : Fmt) : (m, m.code) ∈ fmtCodes := by cases m <;> decide

theorem code_mem_perrCodes (e : FormatCode) : (e, e.code) ∈ perrCodes := by cases e <;> decide

theorem code_mem_cerrCodes (e : CmdCode) : (e, e.code) ∈ cerrCodes := by cases e <;> decide

/-- Settles O14: STATUS has the model's code at each field's place, and that code is the tables' number. -/
theorem statusAndPosFields : Obligations.StatusAndPosFields := by
  intro s
  refine ⟨?pstate, ?fmt, statusWord_filled s, statusWord_eerr s, ?perr, ?cerr, statusWord_reserved s, posWord_row s,
    posWord_col s⟩
  case pstate => rw [statusWord_pstate]; exact code_mem_pstateCodes _
  case fmt => rw [statusWord_fmt]; exact code_mem_fmtCodes _
  case perr => rw [statusWord_perr]; exact code_mem_perrCodes _
  case cerr => rw [statusWord_cerr]; exact code_mem_cerrCodes _

end Sys2Proof.Machine
end

section
/-! PROOFS. CERR blocks nothing: every command commutes with another value of CERR, or clears it (60_exceptions.md
R185). -/

namespace Sys2Proof.Machine

/-- The state with another value of CERR. -/
def withCerr (e : CmdCode) (s : State) : State := { s with cerr := e }

theorem withCerr_ite (e : CmdCode) (p : Prop) [Decidable p] (s t : State) :
    withCerr e (if p then s else t) = if p then withCerr e s else withCerr e t := apply_ite _ _ _ _

theorem goUnlessError_withCerr (p : PState) (e : CmdCode) (s : State) :
    goUnlessError p (withCerr e s) = withCerr e (goUnlessError p s) := by
  simp only [goUnlessError, withCerr_ite]
  rfl

theorem widthDigit_withCerr (b : Byte) (e : CmdCode) (s : State) :
    widthDigit b (withCerr e s) = withCerr e (widthDigit b s) := by
  simp only [widthDigit, accDigit, withCerr_ite]
  rfl

theorem heightDigit_withCerr (b : Byte) (e : CmdCode) (s : State) :
    heightDigit b (withCerr e s) = withCerr e (heightDigit b s) := by
  simp only [heightDigit, accDigit, withCerr_ite]
  rfl

theorem endWidth_withCerr (e : CmdCode) (s : State) : endWidth (withCerr e s) = withCerr e (endWidth s) := by
  simp only [endWidth, withCerr_ite]
  rfl

theorem endHeight_withCerr (e : CmdCode) (s : State) : endHeight (withCerr e s) = withCerr e (endHeight s) := by
  simp only [endHeight, withCerr_ite]
  rfl

theorem scanComment_withCerr (p : PState) (b : Byte) (e : CmdCode) (s : State) :
    scanComment p b (withCerr e s) = withCerr e (scanComment p b s) := by
  simp only [scanComment, withCerr_ite]
  rfl

theorem bufWrite_withCerr (c k : Nat) (v : Byte) (e : CmdCode) (s : State) :
    bufWrite c k v (withCerr e s) = withCerr e (bufWrite c k v s) := by
  simp only [bufWrite, withCerr_ite]
  rfl

theorem setPixel_withCerr (r c : Nat) (black : Bool) (e : CmdCode) (s : State) :
    setPixel r c black (withCerr e s) = withCerr e (setPixel r c black s) := by
  simp only [setPixel, withCerr_ite, ← bufWrite_withCerr]
  rfl

theorem setByte_withCerr (b : Byte) (e : CmdCode) (s : State) :
    setByte b (withCerr e s) = withCerr e (setByte b s) := by
  unfold setByte
  exact List.foldl_hom (withCerr e) fun x t => setPixel_withCerr _ _ _ e x

theorem asciiPixel_withCerr (b : Byte) (e : CmdCode) (s : State) :
    asciiPixel b (withCerr e s) = withCerr e (asciiPixel b s) := by
  simp only [asciiPixel, withCerr_ite, setPixel_withCerr]
  rfl

theorem binaryPixel_withCerr (b : Byte) (e : CmdCode) (s : State) :
    binaryPixel b (withCerr e s) = withCerr e (binaryPixel b s) := by
  simp only [binaryPixel, withCerr_ite, setByte_withCerr]
  rfl

theorem checkFull_withCerr (e : CmdCode) (s : State) : checkFull (withCerr e s) = withCerr e (checkFull s) := by
  simp only [checkFull, withCerr_ite]
  rfl

theorem scanPix_withCerr (b : Byte) (e : CmdCode) (s : State) :
    scanPix b (withCerr e s) = withCerr e (scanPix b s) := by
  simp only [scanPix, ← checkFull_withCerr, withCerr_ite, asciiPixel_withCerr, binaryPixel_withCerr]
  rfl

/-- The scanner does not read CERR. -/
theorem scan_withCerr (b : Byte) (e : CmdCode) (s : State) : scan b (withCerr e s) = withCerr e (scan b s) := by
  have hp : (withCerr e s).pstate = s.pstate := rfl
  unfold scan
  rw [hp]
  cases s.pstate with
  | idle | full | ended | error => rfl
  | pix => exact scanPix_withCerr b e s
  | commentW | commentH | commentP => exact scanComment_withCerr _ b e s
  | magicP => simp only [scanMagicP, withCerr_ite]; rfl
  | magicT => simp only [scanMagicT, withCerr_ite]; rfl
  | sep0 => simp only [scanSep0, withCerr_ite]; rfl
  | wsW => simp only [scanWsW, withCerr_ite, ← goUnlessError_withCerr, ← widthDigit_withCerr]; rfl
  | wsH => simp only [scanWsH, withCerr_ite, ← goUnlessError_withCerr, ← heightDigit_withCerr]; rfl
  | digW => simp only [scanDigW, withCerr_ite, ← goUnlessError_withCerr, widthDigit_withCerr, endWidth_withCerr]; rfl
  | digH => simp only [scanDigH, withCerr_ite, ← goUnlessError_withCerr, heightDigit_withCerr, endHeight_withCerr]; rfl

theorem scanEnd_withCerr (e : CmdCode) (s : State) : scanEnd (withCerr e s) = withCerr e (scanEnd s) := by
  have hp : (withCerr e s).pstate = s.pstate := rfl
  unfold scanEnd
  rw [hp]
  cases s.pstate with
  | digH => simp only [endHeight_withCerr, goUnlessError_withCerr]
  | idle | magicP | magicT | sep0 | wsW | digW | wsH | commentW | commentH | commentP | pix | full | ended | error =>
    rfl

/-- The same but for CERR. -/
theorem withCerr_none_eq {e : CmdCode} {s t : State} (h : t = withCerr e s) : withCerr .none t = withCerr .none s := by
  rw [h]; rfl

theorem withCerr_none_raiseCmdError (e : CmdCode) (s : State) :
    withCerr .none (raiseCmdError e s) = withCerr .none s := by
  simp only [raiseCmdError, withCerr_ite]
  exact ite_self _

/-- Two commands with the same check, whose two outcomes are each the same but for CERR. -/
theorem exists_next_ite {p : Prop} [Decidable p] {s t s' t' : State} (hs : withCerr .none s' = withCerr .none s)
    (ht : withCerr .none t' = withCerr .none t) :
    ∃ x y, (if p then .next s else .next t : Host.Outcome State Fault Refusal) = .next x ∧
      (if p then .next s' else .next t' : Host.Outcome State Fault Refusal) = .next y ∧
      withCerr .none y = withCerr .none x := by
  split
  · exact ⟨s, s', rfl, rfl, hs⟩
  · exact ⟨t, t', rfl, rfl, ht⟩

/-- A command raises an error or goes on, whatever CERR holds. -/
theorem exec_withCerr (i : Instr) (e : CmdCode) (s : State) :
    ∃ t u, exec i s = .next t ∧ exec i (withCerr e s) = .next u ∧ withCerr .none u = withCerr .none t := by
  have hraise (code : CmdCode) :
      withCerr .none (raiseCmdError code (withCerr e s)) = withCerr .none (raiseCmdError code s) := by
    simp only [withCerr_none_raiseCmdError]
    rfl
  cases i with
  | nop | sreset | jobStart | setcol | encode | colrd => exact ⟨_, _, rfl, rfl, rfl⟩
  | feed b => exact exists_next_ite (p := noStream s = true) (hraise _) (withCerr_none_eq (scan_withCerr b e s))
  | feedEnd => exact exists_next_ite (p := noStream s = true) (hraise _) (withCerr_none_eq (scanEnd_withCerr e s))
  | bufrd c | loadcol c => exact exists_next_ite (p := columnExists c s = true) rfl (hraise _)
  | outrd n => exact exists_next_ite (p := outIndexExists n = true) rfl (hraise _)

/-- Settles O45: a command's next state depends on CERR in CERR alone. -/
theorem cerrBlocksNothing : Obligations.CerrBlocksNothing := fun i s e => exec_withCerr i e s

end Sys2Proof.Machine
end

section
/-! PROOFS. The accesses of the host port (20_memory.md R52, R55, R56; log 4). -/

namespace Sys2Proof.Machine

/-- No register shows the host's pending accesses. -/
@[simp] theorem readOffset_withPending (off : Nat) (rest : List HostEvent) (s : State) :
    readOffset off (withPending rest s) = readOffset off s := rfl

/-- No register shows the values returned to the host. -/
@[simp] theorem readOffset_reply (off : Nat) (v : Word) (s : State) :
    readOffset off (reply v s) = readOffset off s := rfl

section
variable {s : State} {rest : List HostEvent} {size : AccessSize} {off : Nat} {v : Word}

/-- An aligned 32-bit read replies with the register as it stood before the read (R52, R55). -/
theorem step_of_word_read (h : off < Config.windowBytes) (h4 : off % 4 = 0)
    (hp : s.pending = .read .word (s.bcxBase + off) :: rest) :
    step s = .next (reply (readOffset off s) (withPending rest s)) := by
  rw [← readOffset_withPending off rest s]
  exact (step_of_read hp).trans (onWindow_at (withPending rest s) _ h h4)

/-- An aligned 32-bit write runs a command at CMD and has no effect elsewhere (R52). -/
theorem step_of_word_write (h : off < Config.windowBytes) (h4 : off % 4 = 0)
    (hp : s.pending = .write .word (s.bcxBase + off) v :: rest) :
    step s = if off = Reg.offset .cmd then command v (withPending rest s) else .next (withPending rest s) :=
  (step_of_write hp).trans (onWindow_at (withPending rest s) _ h h4)

/-- A read or a write of this size at this host address is the oldest pending access. -/
def NextAccess (s : State) (size : AccessSize) (addr : Nat) : Prop :=
  ∃ v rest, s.pending = .read size addr :: rest ∨ s.pending = .write size addr v :: rest

/-- A read and a write pass the same checks: what `onWindow` answers whatever the access does, the step answers. -/
theorem NextAccess.step_eq {addr : Nat} {r : Host.Outcome State Fault Refusal} (hp : NextAccess s size addr)
    (h : ∀ rest k, onWindow size addr (withPending rest s) k = r) : step s = r := by
  obtain ⟨v, rest, hread | hwrite⟩ := hp
  · exact (step_of_read hread).trans (h rest _)
  · exact (step_of_write hwrite).trans (h rest _)

theorem NextAccess.step_subWord (hp : NextAccess s size (s.bcxBase + off)) (h : off < Config.windowBytes)
    (hsize : size ≠ .word) : step s = .refused .subWordAccess :=
  hp.step_eq fun rest k => onWindow_subWord (withPending rest s) k h hsize

theorem NextAccess.step_misaligned (hp : NextAccess s .word (s.bcxBase + off)) (h : off < Config.windowBytes)
    (h4 : off % 4 ≠ 0) : step s = .refused .misalignedAccess :=
  hp.step_eq fun rest k => onWindow_misaligned (withPending rest s) k h h4

theorem NextAccess.step_outside {addr : Nat} (hp : NextAccess s size addr)
    (h : addr < s.bcxBase ∨ s.bcxBase + Config.windowBytes ≤ addr) : step s = .fault .outsideWindow :=
  hp.step_eq fun rest k => onWindow_outside (s := withPending rest s) k h

end

/-- Settles O9: an aligned 32-bit access is performed, any other access of the window is refused. -/
theorem hostAccessRules : Obligations.HostAccessRules := by
  intro s rest size off v h
  refine ⟨fun hread => ?read, fun hwrite => ?write⟩
  case read =>
    have hnext : NextAccess s size (s.bcxBase + off) := ⟨v, rest, .inl hread⟩
    refine ⟨?performed, hnext.step_subWord h, ?misaligned⟩
    case performed => rintro rfl h4; exact step_of_word_read h h4 hread
    case misaligned => rintro rfl h4; exact hnext.step_misaligned h h4
  case write =>
    have hnext : NextAccess s size (s.bcxBase + off) := ⟨v, rest, .inr hwrite⟩
    refine ⟨?command, ?noEffect, hnext.step_subWord h, ?misaligned⟩
    case command => rintro rfl rfl; exact step_of_command hwrite
    case noEffect =>
      rintro rfl h4 hcmd
      exact (step_of_word_write h h4 hwrite).trans (if_neg hcmd)
    case misaligned => rintro rfl h4; exact hnext.step_misaligned h h4

/-- Settles O10: the window check comes before the others. -/
theorem outsideWindowFaults : Obligations.OutsideWindowFaults :=
  fun _ rest _ _ v h hp => NextAccess.step_outside ⟨v, rest, hp⟩ h

/-- Settles O12: the first read's reply shows in no register, so the second read returns the same value. -/
theorem readsAreIdempotent : Obligations.ReadsAreIdempotent := by
  intro s off rest h h4 hp
  have hfirst := step_of_word_read h h4 hp
  have hsecond := step_of_word_read (rest := rest)
    (s := reply (readOffset off s) (withPending (.read .word (s.bcxBase + off) :: rest) s)) h h4 rfl
  rw [readOffset_reply, readOffset_withPending] at hsecond
  refine ⟨_, _, readOffset off s, hfirst, hsecond, ?_⟩
  simp only [reply, withPending, List.append_assoc, List.cons_append, List.nil_append]

end Sys2Proof.Machine
end

section
/-! PROOFS. A word is a command exactly when it is a legal word of its row, and then it is that command's word
(30_encoding.md R71, R74, R77). -/

namespace Sys2Proof.Machine

open BitVec

/-! Decoding by rows: the opcode of a legal word is its row's. -/

/-- The bits of a legal word that the row's mask selects are the match's. -/
theorem slice_of_legal {w mask pat : Word} {start len : Nat} (h : w &&& mask = pat)
    (hmask : mask.extractLsb' start len = allOnes len) : w.extractLsb' start len = pat.extractLsb' start len := by
  rw [← h, extractLsb'_and, hmask, and_allOnes]

theorem mnemonicOf_matchOf (m : Mnemonic) : mnemonicOf (opcodeField (matchOf m)) = some m := by
  cases m <;> rfl

theorem opcode_maskOf (m : Mnemonic) : (maskOf m).extractLsb' 24 8 = allOnes 8 := by
  cases m <;> rfl

theorem mnemonicOf_of_legal {w : Word} {m : Mnemonic} (h : w &&& maskOf m = matchOf m) :
    mnemonicOf (opcodeField w) = some m :=
  (congrArg mnemonicOf (slice_of_legal h (opcode_maskOf m))).trans (mnemonicOf_matchOf m)

/-- A legal word of a row is the row's command, with the fields of the word. -/
theorem decode_of_legal {w : Word} {m : Mnemonic} (h : w &&& maskOf m = matchOf m) :
    decode w = .cmd (fieldsOf m w) := by
  have hlegal : reservedNonzero m w = false := bne_eq_false_iff_eq.mpr h
  simp [decode, mnemonicOf_of_legal h, hlegal]

/-- A word of a row's opcode that is no legal word of the row is reserved. -/
theorem decode_of_not_legal {w : Word} {m : Mnemonic} (hop : mnemonicOf (opcodeField w) = some m)
    (h : w &&& maskOf m ≠ matchOf m) : decode w = .reserved m := by
  have hreserved : reservedNonzero m w = true := bne_iff_ne.mpr h
  simp [decode, hop, hreserved]

/-- A word is illegal exactly when its opcode has no row. -/
theorem decode_eq_illegal_iff {w : Word} : decode w = .illegal ↔ mnemonicOf (opcodeField w) = none := by
  unfold decode
  split
  · rename_i hnone
    exact iff_of_true rfl hnone
  · rename_i m hsome
    rw [hsome]
    split <;> simp

/-! The word of a command: a legal word of its row, with the fields at their places. -/

theorem rowPattern (i : Instr) : Laws.RowPattern.Statement i := by
  cases i with
  | nop => exact Laws.RowPattern.nop
  | sreset => exact Laws.RowPattern.sreset
  | jobStart => exact Laws.RowPattern.jobStart
  | feed b => exact Laws.RowPattern.feed b
  | feedEnd => exact Laws.RowPattern.feedEnd
  | bufrd c k => exact Laws.RowPattern.bufrd c k
  | loadcol c => exact Laws.RowPattern.loadcol c
  | setcol k v => exact Laws.RowPattern.setcol k v
  | encode => exact Laws.RowPattern.encode
  | outrd n => exact Laws.RowPattern.outrd n
  | colrd k => exact Laws.RowPattern.colrd k

theorem fieldsOf_encode (i : Instr) : fieldsOf (mnemonicOfInstr i) (encode i) = i := by
  cases i with
  | nop | sreset | jobStart | feedEnd | encode => rfl
  | feed b => exact congrArg Instr.feed extractLsb'_append_eq_right
  | loadcol c => exact congrArg Instr.loadcol extractLsb'_append_eq_right
  | outrd n => exact congrArg Instr.outrd extractLsb'_append_eq_right
  | colrd k => exact congrArg Instr.colrd (extractLsb'_above (by decide) extractLsb'_append_eq_right)
  | bufrd c k =>
    exact congrArg₂ Instr.bufrd extractLsb'_append_eq_right
      (extractLsb'_above (by decide) extractLsb'_append_eq_right)
  | setcol k v =>
    exact congrArg₂ Instr.setcol
      (extractLsb'_above (by decide) (extractLsb'_above (by decide) extractLsb'_append_eq_right))
      extractLsb'_append_eq_right

/-- Settles O2: the word is a legal one of the command's row, and the fields are read back from their places. -/
theorem decodeOfEncode : Obligations.DecodeOfEncode := fun i =>
  (decode_of_legal (rowPattern i)).trans (congrArg Decoded.cmd (fieldsOf_encode i))

/-! The way back: the pieces of a command's word are consecutive slices of the decoded word. -/

/-- Two pieces that are neighbouring slices of a word make one slice of it. -/
theorem append_eq_slice {w : Word} {start len₁ len₂ : Nat} {hi : BitVec len₂} {lo : BitVec len₁}
    (hhi : hi = w.extractLsb' (start + len₁) len₂) (hlo : lo = w.extractLsb' start len₁) :
    hi ++ lo = w.extractLsb' start (len₂ + len₁) := by
  rw [hhi, hlo, extractLsb'_append_extractLsb'_eq_extractLsb' rfl]

/-- The fields of a legal word make up the word again: every other bit is the match's. -/
theorem encode_fieldsOf {w : Word} {m : Mnemonic} (h : w &&& maskOf m = matchOf m) : encode (fieldsOf m w) = w := by
  have fixedSlice {start len : Nat} {v : BitVec len} (hmask : (maskOf m).extractLsb' start len = allOnes len)
      (hv : (matchOf m).extractLsb' start len = v) : v = w.extractLsb' start len :=
    hv.symm.trans (slice_of_legal h hmask).symm
  refine Eq.trans ?_ (extractLsb'_eq_self (x := w))
  cases m with
  | nop | sreset | jobStart | feedEnd | encode => exact fixedSlice rfl rfl
  | bufrd => exact append_eq_slice (append_eq_slice (fixedSlice rfl rfl) rfl) rfl
  | colrd => exact append_eq_slice (append_eq_slice (fixedSlice rfl rfl) rfl) (fixedSlice rfl rfl)
  | feed | loadcol | outrd => exact append_eq_slice (append_eq_slice (fixedSlice rfl rfl) (fixedSlice rfl rfl)) rfl
  | setcol =>
    exact append_eq_slice (append_eq_slice (append_eq_slice (fixedSlice rfl rfl) rfl) (fixedSlice rfl rfl)) rfl

/-- Settles O3: the word is legal in the command's row, so the command is its fields, and these make up the word. -/
theorem encodeOfDecode : Obligations.EncodeOfDecode := by
  intro w i hdecode
  have hlegal := and_maskOf_of_decode hdecode
  have hi : i = fieldsOf (mnemonicOfInstr i) w := Decoded.cmd.inj (hdecode.symm.trans (decode_of_legal hlegal))
  rw [hi]
  exact encode_fieldsOf hlegal

/-- Settles O1: fourteen closed words, each decoded by evaluation. -/
theorem decodeReadsSpecWords : Obligations.DecodeReadsSpecWords := by
  unfold Obligations.DecodeReadsSpecWords
  decide

end Sys2Proof.Machine
end

section
/-! PROOFS. The words that are no command: illegal opcodes and reserved bits (30_encoding.md R75, R76), at the command
and at the step (40_control.md R103). -/

namespace Sys2Proof.Machine

open BitVec

/-- An illegal word only records ILLEGAL_OPCODE (R75). -/
theorem command_of_illegal {w : Word} (h : decode w = .illegal) (s : State) :
    command w s = .next (afterCmdError .illegalOpcode s) := by
  unfold command
  rw [h, ← raiseCmdError_eq]

/-- A word with a reserved bit set only records RESERVED_NONZERO (R76). -/
theorem command_of_reserved {w : Word} {m : Mnemonic} (h : decode w = .reserved m) (s : State) :
    command w s = .next (afterCmdError .reservedNonzero s) := by
  unfold command
  rw [h, ← raiseCmdError_eq]

/-- Settles O7: the access is the CMD write, and the word is no command. -/
theorem stepRecordsUndecodedWord : Obligations.StepRecordsUndecodedWord := by
  intro s w rest hnext
  rw [step_of_command hnext]
  exact ⟨fun hdecode => command_of_illegal hdecode _, fun m hdecode => command_of_reserved hdecode _⟩

/-- The opcodes without a row are 0x0B to 0xFF (R74, R75). -/
theorem mnemonicOf_eq_none_iff {op : Byte} : mnemonicOf op = none ↔ 0x0B ≤ op.toNat := by
  unfold mnemonicOf
  split
  case h_12 =>
    have hop : 0x0B ≤ op.toNat := by
      simp only [imp_false] at *
      omega
    exact iff_of_true rfl hop
  all_goals exact iff_of_false (by simp) (by omega)

/-- Settles O4: the illegal opcodes are those without a row. -/
theorem illegalOpcodeExecutesNothing : Obligations.IllegalOpcodeExecutesNothing := by
  refine ⟨fun w s hop => ?illegal, fun w hop hdecode => ?legal⟩
  case illegal =>
    have hdecode : decode w = .illegal := decode_eq_illegal_iff.mpr (mnemonicOf_eq_none_iff.mpr hop)
    exact ⟨hdecode, command_of_illegal hdecode s⟩
  case legal =>
    have habove : 0x0B ≤ (opcodeField w).toNat := mnemonicOf_eq_none_iff.mp (decode_eq_illegal_iff.mp hdecode)
    exact absurd (habove.trans hop) (by decide)

/-! The bits a row's mask selects are its opcode and its reserved positions. -/

theorem maskOf_eq (m : Mnemonic) : maskOf m = (allOnes 8 ++ 0#24) ||| reservedPositions m := by
  cases m <;> rfl

theorem matchOf_eq (m : Mnemonic) : matchOf m = opcodeField (matchOf m) ++ 0#24 := by
  cases m <;> rfl

theorem matchOf_and_reservedPositions (m : Mnemonic) : matchOf m &&& reservedPositions m = 0#32 := by
  cases m <;> rfl

theorem maskOf_and_reservedPositions (m : Mnemonic) : maskOf m &&& reservedPositions m = reservedPositions m := by
  cases m <;> rfl

theorem eq_opcode_of_mnemonicOf {op : Byte} {m : Mnemonic} (h : mnemonicOf op = some m) :
    op = opcodeField (matchOf m) := by
  unfold mnemonicOf at h
  split at h <;> cases h
  all_goals exact eq_of_toNat_eq ‹_›

theorem and_opcodeMask (w : Word) : w &&& (allOnes 8 ++ 0#24) = opcodeField w ++ 0#24 := by
  have hw : opcodeField w ++ w.extractLsb' 0 24 = w := (append_eq_slice rfl rfl).trans extractLsb'_eq_self
  calc w &&& (allOnes 8 ++ 0#24)
      = (opcodeField w ++ w.extractLsb' 0 24) &&& (allOnes 8 ++ 0#24) := by rw [hw]
    _ = opcodeField w ++ 0#24 := by rw [and_append, and_allOnes, and_zero]

/-- A word of a row's opcode is legal exactly when none of its `0` positions of R71 is set. -/
theorem legal_iff_reserved_zero {w : Word} {m : Mnemonic} (hop : mnemonicOf (opcodeField w) = some m) :
    w &&& maskOf m = matchOf m ↔ w &&& reservedPositions m = 0#32 := by
  constructor
  · intro h
    rw [← maskOf_and_reservedPositions, ← BitVec.and_assoc, h, matchOf_and_reservedPositions]
  · intro h
    rw [maskOf_eq, and_or_distrib_left, and_opcodeMask, h, or_zero, eq_opcode_of_mnemonicOf hop, ← matchOf_eq]

/-- Settles O5: the reserved positions are what tells the legal words of an opcode from the others. -/
theorem reservedBitExecutesNothing : Obligations.ReservedBitExecutesNothing := by
  intro w m s hop
  refine ⟨fun hset => ?set, fun hzero => ?clear⟩
  case set =>
    have hdecode : decode w = .reserved m := decode_of_not_legal hop (mt (legal_iff_reserved_zero hop).mp hset)
    exact ⟨hdecode, command_of_reserved hdecode s⟩
  case clear =>
    have hlegal := (legal_iff_reserved_zero hop).mpr hzero
    exact ⟨fieldsOf m w, decode_of_legal hlegal, mnemonicOfInstr_fieldsOf m w⟩

end Sys2Proof.Machine
end

section
/-! PROOFS. The assembler: a line's numbers are the command's fields, and the pseudo-commands' expansions (30_encoding.md
R78, R79). -/

namespace Sys2Proof.Machine

/-- An operand is assembled exactly when it is the number of a field's value. -/
theorem operandField_eq_some_iff {width n : Nat} {x : BitVec width} : operandField width n = some x ↔ x.toNat = n := by
  unfold operandField
  split
  · rename_i hfits
    rw [Option.some_inj, ← BitVec.toNat_inj, BitVec.toNat_ofNat, Nat.mod_eq_of_lt hfits, eq_comm]
  · rename_i hlarge
    exact iff_of_false (by simp) fun h => hlarge (h ▸ x.isLt)

@[simp] theorem operandField_toNat {width : Nat} (x : BitVec width) : operandField width x.toNat = some x :=
  operandField_eq_some_iff.mpr rfl

/-- The numbers of a command assemble to it. -/
theorem assembleCommand_numbers (i : Instr) : assembleCommand (mnemonicOfInstr i) i.numbers = some i := by
  cases i <;> simp [assembleCommand, mnemonicOfInstr, Instr.numbers]

/-- What assembles is a command of the mnemonic with these numbers. -/
theorem eq_numbers_of_assembleCommand {m : Mnemonic} {operands : List Nat} {i : Instr}
    (h : assembleCommand m operands = some i) : mnemonicOfInstr i = m ∧ i.numbers = operands := by
  unfold assembleCommand at h
  split at h
  case h_12 => cases h
  -- one operand: FEED, LOADCOL, OUTRD, COLRD
  case h_4 | h_7 | h_10 | h_11 =>
    obtain ⟨x, hx, rfl⟩ := Option.map_eq_some_iff.mp h
    exact ⟨rfl, congrArg (fun n => [n]) (operandField_eq_some_iff.mp hx)⟩
  -- two operands: BUFRD, SETCOL
  case h_6 | h_8 =>
    obtain ⟨x, hx, h⟩ := Option.bind_eq_some_iff.mp h
    obtain ⟨y, hy, rfl⟩ := Option.map_eq_some_iff.mp h
    exact ⟨rfl, congrArg₂ (fun n k => [n, k]) (operandField_eq_some_iff.mp hx) (operandField_eq_some_iff.mp hy)⟩
  -- no operand
  all_goals
    cases h
    exact ⟨rfl, rfl⟩

/-- Settles O54: assembling and reading off the numbers are inverse. -/
theorem assemblyNeverTruncates : Obligations.AssemblyNeverTruncates :=
  ⟨fun _ _ _ h => eq_numbers_of_assembleCommand h, assembleCommand_numbers⟩

/-- One line of an expansion: the numbers of a command issue it. -/
theorem issueLine_of_numbers {i : Instr} {operands : List Nat} (h : i.numbers = operands) :
    issueLine (mnemonicOfInstr i) operands = some (.issue i) := by
  rw [issueLine, ← h, assembleCommand_numbers, Option.map_some]

section
variable {α β : Type}

theorem allSome_map_some (l : List α) : allSome (l.map some) = some l := by
  induction l with
  | nil => rfl
  | cons a l ih => simp [allSome, ih]

theorem allSome_map {f : α → Option β} {g : α → β} {l : List α} (h : ∀ a ∈ l, f a = some (g a)) :
    allSome (l.map f) = some (l.map g) := by
  rw [← allSome_map_some, List.map_map]
  exact congrArg allSome (List.map_congr_left h)

theorem allSome_flatMap {f : α → List (Option β)} {g : α → List β} {l : List α}
    (h : ∀ a ∈ l, f a = (g a).map some) : allSome (l.flatMap f) = some (l.flatMap g) := by
  rw [List.flatMap_congr h, ← allSome_map_some, List.map_flatMap]

end

/-- GETOUT and GETCOL: n commands, each followed by a read of RDATA. -/
theorem allSome_issue_read {n : Nat} {line : Nat → Option HostAction} {i : Nat → Instr}
    (h : ∀ k < n, line k = some (.issue (i k))) :
    allSome ((List.range n).flatMap fun k => [line k, some (.read .rdata)]) =
      some ((List.range n).flatMap fun k => [.issue (i k), .read .rdata]) :=
  allSome_flatMap fun k hk => congrArg (fun x => [x, some (.read .rdata)]) (h k (List.mem_range.mp hk))

/-- The bytes of a column as numbers, each with its index. -/
theorem zipIdx_toNat (vs : Vector Byte 16) :
    (vs.toList.map BitVec.toNat).zipIdx = (List.finRange 16).map fun k => (vs[k].toNat, k.val) := by
  apply List.ext_getElem <;> simp

/-- Settles O55: the operands of each line of an expansion are the numbers of the command it stands for. -/
theorem pseudoCommandsExpand : Obligations.PseudoCommandsExpand := by
  refine ⟨fun bs => rfl, fun bs hbs => ?feedb, fun c => ?enccol, fun vs => ?setcols, fun n hn => ?getout,
    fun c => ?getcol⟩
  case feedb =>
    rw [AsmLine.expand, if_neg (mt List.map_eq_nil_iff.mp hbs), List.map_map]
    exact allSome_map fun b _ => issueLine_of_numbers (i := .feed b) rfl
  case enccol =>
    exact congrArg (fun line => allSome [line, issueLine .encode []]) (issueLine_of_numbers (i := .loadcol c) rfl)
  case setcols =>
    rw [AsmLine.expand, if_pos (by simp), zipIdx_toNat, List.map_map]
    exact allSome_map fun k _ => issueLine_of_numbers (i := .setcol (.ofFin k) vs[k]) rfl
  case getout =>
    refine allSome_issue_read fun k hk => issueLine_of_numbers (i := .outrd (.ofNat 6 k)) ?_
    exact congrArg (fun x => [x]) ((BitVec.toNat_ofNat k 6).trans (Nat.mod_eq_of_lt (hk.trans_le hn)))
  case getcol =>
    refine allSome_issue_read fun k hk => issueLine_of_numbers (i := .bufrd c (.ofNat 4 k)) ?_
    exact congrArg (fun x => [c.toNat, x]) ((BitVec.toNat_ofNat k 4).trans (Nat.mod_eq_of_lt hk))

end Sys2Proof.Machine
end

section
/-! PROOFS. The command step: no word stops the machine, and its checks in order (40_control.md R103, 60_exceptions.md
R188). -/

namespace Sys2Proof.Machine

/-- Every command answers a next state. -/
theorem exists_exec_eq_next (i : Instr) (s : State) : ∃ t, exec i s = .next t :=
  let ⟨t, _, ht, _⟩ := exec_withCerr i s.cerr s
  ⟨t, ht⟩

/-- Settles O15: a word is illegal, reserved or a command, and each of these goes on. -/
theorem commandsNeverStop : Obligations.CommandsNeverStop := by
  refine ⟨exists_exec_eq_next, fun w s => ?_⟩
  cases hdecode : decode w with
  | illegal => exact ⟨_, command_of_illegal hdecode s⟩
  | reserved m => exact ⟨_, command_of_reserved hdecode s⟩
  | cmd i =>
    rw [command_of_cmd hdecode]
    exact exists_exec_eq_next i s

theorem noStream_iff {s : State} : noStream s = true ↔ s.pstate = .idle ∨ s.pstate = .ended := by
  simp [noStream]

/-- A command with an index out of range only records OPERAND_RANGE (30_encoding.md R72, R103). -/
theorem exec_of_not_wellFormed {i : Instr} {s : State} (h : i.WellFormed s.maxColumns = false) :
    exec i s = .next (raiseCmdError .operandRange s) := by
  cases i with
  | bufrd | loadcol | outrd => exact if_neg (Bool.eq_false_iff.mp h)
  | nop | sreset | jobStart | feed | feedEnd | setcol | encode | colrd => cases h

/-- FEED and FEED_END without an open stream only record SEQUENCE (R103). -/
theorem exec_of_noStream {i : Instr} {s : State} (hi : i.UsesStream) (h : noStream s = true) :
    exec i s = .next (raiseCmdError .sequence s) := by
  obtain rfl | ⟨b, rfl⟩ := hi
  · exact if_pos h
  · exact if_pos h

/-- A command that passes both checks raises no CmdError. -/
theorem Executes.cerr_eq_or_none {s t : State} {i : Instr} (h : Executes s i t)
    (hwf : i.WellFormed s.maxColumns = true) (hseq : ¬ (i.UsesStream ∧ noStream s = true)) :
    t.cerr = s.cerr ∨ t.cerr = .none := by
  cases h with
  | operandRange hbad => exact absurd hwf (Bool.eq_false_iff.mp hbad)
  | sequence hi hclosed => exact absurd ⟨hi, hclosed⟩ hseq
  | sreset | jobStart => exact .inr rfl
  | feed b => exact .inl (congrArg Prod.fst (scannerBlind_outside.scan b s))
  | feedEnd => exact .inl (congrArg Prod.fst (scannerBlind_outside.scanEnd s))
  | nop | bufrd | loadcol | setcol | encode | outrd | colrd => exact .inl rfl

/-- Settles O8: the checks of R103 one after the other, each with the word, the command and the state that fail it. -/
theorem commandChecksInOrder : Obligations.CommandChecksInOrder := by
  refine fun w s => ⟨fun hdecode => command_of_illegal hdecode s, fun m hdecode => command_of_reserved hdecode s,
    fun i hdecode => ?_⟩
  rw [command_of_cmd hdecode, ← noStream_iff, ← raiseCmdError_eq, ← raiseCmdError_eq]
  refine ⟨exec_of_not_wellFormed, fun _ => exec_of_noStream, fun hwf hseq => ⟨rfl, ?_⟩⟩
  obtain ⟨t, ht⟩ := exists_exec_eq_next i s
  exact ⟨t, ht, (executes_of_exec ht).cerr_eq_or_none hwf hseq⟩

end Sys2Proof.Machine
end

section
/-! PROOFS. The commands that are not the scanner's leave its part of the state alone, and each writes only its own
registers (70_reset_and_hazards.md R206). -/

namespace Sys2Proof.Machine

theorem sameScanner_of_scannerView {s t : State} (h : scannerView t = scannerView s) : SameScanner s t := by
  simp only [scannerView, Prod.mk.injEq] at h
  simp [SameScanner, h]

theorem sameOutside_raiseCmdError (e : CmdCode) (s : State) : SameOutside s (raiseCmdError e s) := by
  simp [SameOutside]

/-- A CmdError either finds an earlier code in CERR or is recorded there (60_exceptions.md R185). -/
theorem raiseCmdError_cerr_cases (e : CmdCode) (s : State) :
    (raiseCmdError e s).cerr = s.cerr ∨ s.cerr = .none ∧ (raiseCmdError e s).cerr = e := by
  rw [raiseCmdError_cerr]
  split
  · exact .inr ⟨‹_›, rfl⟩
  · exact .inl rfl

/-- Settles O39: the listed commands raise OPERAND_RANGE or write their own registers; the others are not listed. -/
theorem encoderCommandsFrame : Obligations.EncoderCommandsFrame := by
  intro s t i c k v n hi hexec
  cases executes_of_exec hexec with
  | operandRange hwf =>
    exact ⟨sameScanner_of_scannerView (scannerView_raiseCmdError _ _), sameOutside_raiseCmdError _ _,
      .inl (raiseCmdError_rdata _ _), .inl (raiseCmdError_colreg _ _),
      .inl ⟨raiseCmdError_out _ _, raiseCmdError_outlen _ _⟩,
      (raiseCmdError_cerr_cases _ _).imp_right fun hcerr => ⟨hwf, hcerr⟩⟩
  | sequence huses => obtain rfl | ⟨b, rfl⟩ := huses <;> simp at hi
  | sreset | jobStart | feed | feedEnd => simp at hi
  | nop =>
    exact ⟨sameScanner_of_scannerView rfl, ⟨rfl, rfl, rfl, rfl⟩, .inl rfl, .inl rfl, .inl ⟨rfl, rfl⟩, .inl rfl⟩
  | bufrd | outrd | colrd =>
    exact ⟨sameScanner_of_scannerView rfl, ⟨rfl, rfl, rfl, rfl⟩, .inr (by simpa using hi), .inl rfl, .inl ⟨rfl, rfl⟩,
      .inl rfl⟩
  | loadcol | setcol =>
    exact ⟨sameScanner_of_scannerView rfl, ⟨rfl, rfl, rfl, rfl⟩, .inl rfl, .inr (by simpa using hi), .inl ⟨rfl, rfl⟩,
      .inl rfl⟩
  | encode =>
    exact ⟨sameScanner_of_scannerView rfl, ⟨rfl, rfl, rfl, rfl⟩, .inl rfl, .inl rfl, .inr rfl, .inl rfl⟩

end Sys2Proof.Machine
end

section
/-! PROOFS. NOP, SRESET, JOB_START and the reset input, with the malformed words of the three opcodes (40_control.md
R100 to R102, 70_reset_and_hazards.md R200, R201). -/

namespace Sys2Proof.Machine

/-- The word of a command runs it. -/
theorem command_encode (i : Instr) (s : State) : command (encode i) s = exec i s := command_of_cmd (decodeOfEncode i) s

/-- A word of a row's opcode that differs from the row's match where the mask selects every bit of a slice only records
RESERVED_NONZERO (30_encoding.md R76). -/
theorem command_of_reserved_slice {w : Word} {m : Mnemonic} {start len : Nat}
    (hop : opcodeField w = opcodeField (matchOf m)) (hmask : (maskOf m).extractLsb' start len = BitVec.allOnes len)
    (h : w.extractLsb' start len ≠ (matchOf m).extractLsb' start len) (s : State) :
    command w s = .next (afterCmdError .reservedNonzero s) :=
  command_of_reserved (decode_of_not_legal ((congrArg mnemonicOf hop).trans (mnemonicOf_matchOf m))
    fun hlegal => h (slice_of_legal hlegal hmask)) s

/-- Settles O16: the word is NOP's own, and any other word of the opcode has a reserved bit set. -/
theorem nopChangesNothing : Obligations.NopChangesNothing := fun s =>
  ⟨rfl, command_encode .nop s, fun _ hop hset => command_of_reserved_slice (m := .nop) hop rfl hset s⟩

/-- A reset gives every value of R200. -/
theorem blockReset_applyReset (s : State) : BlockReset (applyReset s) := by
  constructor
  case colreg | out => exact fun _ h => Vector.getElem_replicate h
  case buf => exact fun _ _ => rfl
  case status => exact (by decide : statusWord State.reset = 0#32)
  case pos => exact (by decide : posWord State.reset = 0#32)
  all_goals rfl

/-- Settles O17: SRESET is the reset, in every state. -/
theorem sresetGivesResetState : Obligations.SresetGivesResetState := fun s =>
  ⟨⟨applyReset s, rfl, command_encode .sreset s, blockReset_applyReset s, ⟨rfl, rfl, rfl, rfl⟩⟩,
    fun _ hop hset => command_of_reserved_slice (m := .sreset) hop rfl hset s⟩

/-- Settles O18: the reset input and SRESET are one operation. -/
theorem hardResetIsSreset : Obligations.HardResetIsSreset := fun _ _ hpend => step_of_pending hpend

/-- Settles O20: every field that JOB_START writes is a constant. -/
theorem jobStartBeginsABitmap : Obligations.JobStartBeginsABitmap := by
  refine fun s => ⟨⟨_, rfl, command_encode .jobStart s, ?_⟩,
    fun _ hop hset => command_of_reserved_slice (m := .jobStart) hop rfl hset s⟩
  exact ⟨rfl, rfl, rfl, rfl, rfl, rfl, rfl, rfl, rfl, rfl, fun _ => rfl, ⟨rfl, rfl, rfl, rfl⟩, ⟨rfl, rfl, rfl, rfl⟩⟩

end Sys2Proof.Machine
end

section
/-! PROOFS. The byte classes of a fed byte, and FEED outside the dimensions and the pixel data (41_extractor.md R110,
R120 to R123, R129, R135). -/

namespace Sys2Proof.Machine

/-! The byte classes (R120): no byte is in two of them. -/

theorem isWs_iff {b : Byte} : isWs b = true ↔ b ∈ wsBytes := by
  simp [isWs, wsBytes, or_assoc]

theorem isEol_iff {b : Byte} : isEol b = true ↔ b ∈ eolBytes := by
  simp [isEol, eolBytes]

theorem isDigit_iff {b : Byte} : isDigit b = true ↔ IsDigitByte b := by
  simp [isDigit]

theorem isHash_iff {b : Byte} : isHash b = true ↔ b = 0x23#8 := by
  simp [isHash]

theorem classes_of_ws {b : Byte} (h : b ∈ wsBytes) : isWs b = true ∧ isHash b = false ∧ isDigit b = false := by
  revert b
  decide

theorem classes_of_hash {b : Byte} (h : b = 0x23#8) : isWs b = false ∧ isHash b = true ∧ isDigit b = false := by
  subst h
  decide

theorem classes_of_digit {b : Byte} (h : IsDigitByte b) : isWs b = false ∧ isHash b = false ∧ isDigit b = true := by
  have hdigit : isDigit b = true := isDigit_iff.mpr h
  refine ⟨Bool.eq_false_iff.mpr fun hws => ?_, Bool.eq_false_iff.mpr fun hhash => ?_, hdigit⟩
  · obtain ⟨-, -, hnot⟩ := classes_of_ws (isWs_iff.mp hws)
    simp [hnot] at hdigit
  · obtain ⟨-, -, hnot⟩ := classes_of_hash (isHash_iff.mp hhash)
    simp [hnot] at hdigit

theorem classes_of_other {b : Byte} (hws : b ∉ wsBytes) (hhash : b ≠ 0x23#8) (hdigit : ¬ IsDigitByte b) :
    isWs b = false ∧ isHash b = false ∧ isDigit b = false :=
  ⟨Bool.eq_false_iff.mpr (mt isWs_iff.mp hws), Bool.eq_false_iff.mpr (mt isHash_iff.mp hhash),
    Bool.eq_false_iff.mpr (mt isDigit_iff.mp hdigit)⟩

/-! FEED and FEED_END reach the scanner exactly when a stream is open (R110, R111). -/

theorem exec_feed_of_open {s : State} {p : PState} (hp : s.pstate = p) (hopen : p ≠ .idle ∧ p ≠ .ended) (b : Byte) :
    exec (.feed b) s = .next (scan b s) :=
  if_neg (by rw [noStream_iff, hp]; tauto)

theorem exec_feedEnd_of_open {s : State} {p : PState} (hp : s.pstate = p) (hopen : p ≠ .idle ∧ p ≠ .ended) :
    exec .feedEnd s = .next (scanEnd s) :=
  if_neg (by rw [noStream_iff, hp]; tauto)

theorem exec_of_closed {i : Instr} {s : State} (hi : i.UsesStream) (h : s.pstate = .idle ∨ s.pstate = .ended) :
    exec i s = .next (afterCmdError .sequence s) := by
  rw [exec_of_noStream hi (noStream_iff.mpr h), raiseCmdError_eq]

/-- Settles O21: the scanner ignores a byte in FULL and in ERROR, and FEED does not reach it in IDLE and ENDED. -/
theorem feedInClosedStates : Obligations.FeedInClosedStates := by
  refine fun s b => ⟨?_, exec_of_closed (.inr ⟨b, rfl⟩)⟩
  rintro (hp | hp) <;> simp only [exec_feed_of_open hp (by decide), scan, hp]

/-- Settles O22: MAGIC_P and MAGIC_T compare the byte with the bytes of the statement. -/
theorem feedMagicBytes : Obligations.FeedMagicBytes := by
  refine fun s b => ⟨fun hp => ?_, fun hp => ?_⟩
  · simp only [exec_feed_of_open hp (by decide), scan, hp]
    rfl
  · simp only [exec_feed_of_open hp (by decide), scan, hp]
    rfl

/-- Settles O23: SEP0 asks for the classes WS and HASH, in this order. -/
theorem feedSeparator : Obligations.FeedSeparator := by
  intro s b hp
  simp only [exec_feed_of_open hp (by decide), scan, hp, scanSep0, isWs_iff, isHash_iff]
  rfl

/-- Settles O27: each comment state is left by an end-of-line byte alone. -/
theorem feedInsideComment : Obligations.FeedInsideComment := by
  intro s b p q hpq hp
  have hscan : exec (.feed b) s = .next (scanComment q b s) := by
    simp only [List.mem_cons, List.not_mem_nil, or_false, Prod.mk.injEq] at hpq
    obtain ⟨rfl, rfl⟩ | ⟨rfl, rfl⟩ | ⟨rfl, rfl⟩ := hpq <;> simp only [exec_feed_of_open hp (by decide), scan, hp]
  rw [hscan]
  simp only [scanComment, isEol_iff]

end Sys2Proof.Machine
end

section
/-! PROOFS. FEED in the two dimension tokens and before them (41_extractor.md R124 to R128). -/

namespace Sys2Proof.Machine

/-! AccDigit, EndWidth and EndHeight, each with its guard (R127, R128). -/

theorem accDigit_of_gt {b : Byte} {limit : Nat} {s : State} (e : FormatCode)
    (h : s.acc.toNat * 10 + (b.toNat - 0x30) > limit) : accDigit b limit e s = raiseFormatError e s := if_pos h

theorem accDigit_of_le {b : Byte} {limit : Nat} {s : State} (e : FormatCode)
    (h : s.acc.toNat * 10 + (b.toNat - 0x30) ≤ limit) :
    accDigit b limit e s = { s with acc := BitVec.ofNat 21 (s.acc.toNat * 10 + (b.toNat - 0x30)) } :=
  if_neg (Nat.not_lt.mpr h)

/-- A digit accepted below a limit that ACC can hold is accumulated exactly. -/
theorem exists_accDigit_eq {b : Byte} {limit : Nat} {s : State} (e : FormatCode) (hlimit : limit < 2 ^ 21)
    (h : s.acc.toNat * 10 + (b.toNat - 0x30) ≤ limit) :
    ∃ a : BitVec 21, a.toNat = s.acc.toNat * 10 + (b.toNat - 0x30) ∧ accDigit b limit e s = { s with acc := a } :=
  ⟨_, by rw [BitVec.toNat_ofNat, Nat.mod_eq_of_lt (h.trans_lt hlimit)], accDigit_of_le e h⟩

theorem goUnlessError_raiseFormatError (p : PState) (e : FormatCode) (s : State) :
    goUnlessError p (raiseFormatError e s) = raiseFormatError e s := if_pos rfl

theorem goUnlessError_endWidth_of_zero {s : State} (q : PState) (h : s.acc = 0#21) :
    goUnlessError q (endWidth s) = raiseFormatError .zeroDimension s := by
  rw [endWidth, if_pos h, goUnlessError_raiseFormatError]

theorem goUnlessError_endWidth_of_ne {s : State} (q : PState) (h : s.acc ≠ 0#21) (hp : s.pstate ≠ .error) :
    goUnlessError q (endWidth s) = { s with width := s.acc, acc := 0#21, pstate := q } := by
  rw [endWidth, if_neg h, goUnlessError_of_ne q (by exact hp)]

theorem goUnlessError_endHeight_of_zero {s : State} (q : PState) (h : s.acc = 0#21) :
    goUnlessError q (endHeight s) = raiseFormatError .zeroDimension s := by
  rw [endHeight, if_pos h, goUnlessError_raiseFormatError]

/-- A height of at most 128 is taken whole. -/
theorem exists_goUnlessError_endHeight_eq {s : State} (q : PState) (hacc : s.acc ≠ 0#21) (hp : s.pstate ≠ .error)
    (hle : s.acc.toNat ≤ 128) : ∃ h : BitVec 8, h.toNat = s.acc.toNat ∧
      goUnlessError q (endHeight s) = { s with height := h, acc := 0#21, row := 0#8, col := 0#24, pstate := q } := by
  refine ⟨s.acc.setWidth 8, ?_, ?_⟩
  · rw [BitVec.toNat_setWidth]
    omega
  · rw [endHeight, if_neg hacc, goUnlessError_of_ne q (by exact hp)]

/-- The first digit of a token is AccDigit on ACC = 0. -/
theorem goUnlessError_firstDigit {s : State} (b : Byte) (limit : Nat) (e : FormatCode) (q : PState)
    (hp : s.pstate ≠ .error) :
    goUnlessError q (accDigit b limit e { s with acc := 0#21 }) =
      if b.toNat - 0x30 > limit then { s with acc := 0#21, pstate := .error, perr := e }
      else { s with acc := BitVec.ofNat 21 (b.toNat - 0x30), pstate := q } := by
  have hvalue : (0#21).toNat * 10 + digitValue b = b.toNat - 0x30 := Nat.zero_add _
  simp only [accDigit, hvalue]
  split
  · exact goUnlessError_raiseFormatError q e _
  · exact goUnlessError_of_ne q (by exact hp)

/-- Settles O24: each class of the byte; a first digit of the height is within its limit. -/
theorem feedBeforeDimension : Obligations.FeedBeforeDimension := by
  refine fun s b => ⟨fun hp => ?_, fun hp => ?_⟩
  · have hfeed : exec (.feed b) s = .next (scanWsW b s) := by simp only [exec_feed_of_open hp (by decide), scan, hp]
    simp only [hfeed, scanWsW]
    refine ⟨fun hws => ?_, fun hhash => ?_, fun hdigit => ?_, fun hws hhash hdigit => ?_⟩
    · simp [classes_of_ws hws]
    · simp [classes_of_hash hhash]
    · rw [widthDigit, goUnlessError_firstDigit b _ _ _ (by simp [hp])]
      simp [classes_of_digit hdigit]
    · simp [classes_of_other hws hhash hdigit, raiseFormatError]
  · have hfeed : exec (.feed b) s = .next (scanWsH b s) := by simp only [exec_feed_of_open hp (by decide), scan, hp]
    simp only [hfeed, scanWsH]
    refine ⟨fun hws => ?_, fun hhash => ?_, fun hdigit => ?_, fun hws hhash hdigit => ?_⟩
    · simp [classes_of_ws hws]
    · simp [classes_of_hash hhash]
    · have hle : ¬ b.toNat - 0x30 > Config.maxHeight := by simp only [Config.maxHeight, Config.colBytes]; omega
      rw [heightDigit, goUnlessError_firstDigit b _ _ _ (by simp [hp]), if_neg hle]
      simp [classes_of_digit hdigit]
    · simp [classes_of_other hws hhash hdigit, raiseFormatError]

/-- Settles O25: the token is accumulated, ended or broken off by the class of the byte. -/
theorem feedInsideWidth : Obligations.FeedInsideWidth := by
  intro s b hp hmax
  have hfeed : exec (.feed b) s = .next (scanDigW b s) := by simp only [exec_feed_of_open hp (by decide), scan, hp]
  have hne : s.pstate ≠ .error := by simp [hp]
  simp only [hfeed, scanDigW, widthDigit]
  refine ⟨fun hdigit hgt => ?_, fun hdigit hle => ?_, fun hend hzero => ?_, fun hws hacc => ?_, fun hhash hacc => ?_,
    fun hws hhash hdigit => ?_⟩
  · simp [classes_of_digit hdigit, accDigit_of_gt _ hgt, raiseFormatError]
  · obtain ⟨a, ha, hacc⟩ := exists_accDigit_eq (s := s) .widthTooLarge (by omega) hle
    exact ⟨a, ha, by simp [classes_of_digit hdigit, hacc]⟩
  · obtain hws | hhash := hend
    · simp [classes_of_ws hws, goUnlessError_endWidth_of_zero _ hzero, raiseFormatError]
    · simp [classes_of_hash hhash, goUnlessError_endWidth_of_zero _ hzero, raiseFormatError]
  · simp [classes_of_ws hws, goUnlessError_endWidth_of_ne _ hacc hne]
  · simp [classes_of_hash hhash, goUnlessError_endWidth_of_ne _ hacc hne]
  · simp [classes_of_other hws hhash hdigit, raiseFormatError]

/-- Settles O26: as for the width, with the limit 128 and the two states that follow the height. -/
theorem feedInsideHeight : Obligations.FeedInsideHeight := by
  intro s b hp hmax
  have hfeed : exec (.feed b) s = .next (scanDigH b s) := by simp only [exec_feed_of_open hp (by decide), scan, hp]
  simp only [hfeed, scanDigH, heightDigit]
  refine ⟨fun hdigit hgt => ?_, fun hdigit hle => ?_, fun hend hzero => ?_, fun hend hacc => ?_,
    fun hws hhash hdigit => ?_⟩
  · simp [classes_of_digit hdigit, accDigit_of_gt (limit := Config.maxHeight) _ hgt, raiseFormatError]
  · obtain ⟨a, ha, hacc⟩ := exists_accDigit_eq (s := s) (limit := Config.maxHeight) .heightTooLarge (by decide) hle
    exact ⟨a, ha, by simp [classes_of_digit hdigit, hacc]⟩
  · obtain hws | hhash := hend
    · simp [classes_of_ws hws, goUnlessError_endHeight_of_zero _ hzero, raiseFormatError]
    · simp [classes_of_hash hhash, goUnlessError_endHeight_of_zero _ hzero, raiseFormatError]
  · obtain ⟨h, hh, hheight⟩ := exists_goUnlessError_endHeight_eq (if b = 0x23#8 then .commentP else .pix) hacc
      (by simp [hp]) hmax
    refine ⟨h, hh, ?_⟩
    rw [← hheight]
    obtain hws | hhash := hend
    · have hnot : b ≠ 0x23#8 := fun hhash => absurd hws (hhash ▸ by decide)
      simp [classes_of_ws hws, hnot]
    · rw [if_pos hhash]
      simp [classes_of_hash hhash]
  · simp [classes_of_other hws hhash hdigit, raiseFormatError]

end Sys2Proof.Machine
end

section
/-! PROOFS. FEED in PIX: the pixels written, the pixels kept and the next position (41_extractor.md R130 to R134). -/

namespace Sys2Proof.Machine

theorem scan_of_pix (b : Byte) {s : State} (hp : s.pstate = .pix) : scan b s = scanPix b s := by
  simp only [scan, hp]

/-! The pixels that SetPixel and the eight pixels of a byte write (R132, R134). -/

/-- What BUF and the dimensions have to meet for a pixel inside them to be written. -/
structure Writable (s : State) : Prop where
  canonical : s.buf.wf = true
  widthLe : s.width.toNat ≤ s.maxColumns
  heightLe : s.height.toNat ≤ Config.maxHeight

theorem wf_setPixel (r c : Nat) (black : Bool) {s : State} (h : s.buf.wf = true) :
    (setPixel r c black s).buf.wf = true := by
  unfold setPixel bufWrite
  split
  · simp only
    split
    · exact Memory.wf_write h _ _
    · exact h
  · exact h

theorem writable_setPixel (r c : Nat) (black : Bool) {s : State} (hs : Writable s) :
    Writable (setPixel r c black s) where
  canonical := wf_setPixel r c black hs.canonical
  widthLe := by simpa using hs.widthLe
  heightLe := by simpa using hs.heightLe

theorem pixel_setPixel {r c r' c' : Nat} (black : Bool) {s : State} (hs : Writable s) (hr : r < s.height.toNat)
    (hr' : r' < Config.maxHeight) :
    pixel (setPixel r c black s) r' c' = if r' = r ∧ c' = c ∧ c' < s.width.toNat then black else pixel s r' c' := by
  split
  next h =>
    obtain ⟨rfl, rfl, hc⟩ := h
    exact pixel_setPixel_same black hs.canonical hr hc hs.heightLe hs.widthLe
  next h =>
    by_cases hsame : r' = r ∧ c' = c
    · obtain ⟨rfl, rfl⟩ := hsame
      rw [setPixel_outside black (by omega)]
    · exact pixel_setPixel_other black hs.canonical hr' hs.heightLe hs.widthLe hsame

/-- The first n pixels of a byte: each inside the width is written, every other pixel is kept. -/
theorem pixel_foldl_setPixel {r c r' c' : Nat} (f : Nat → Bool) {s : State} (hs : Writable s)
    (hr : r < s.height.toNat) (hr' : r' < Config.maxHeight) (n : Nat) :
    pixel ((List.range n).foldl (fun x t => setPixel r (c + t) (f t) x) s) r' c' =
      if r' = r ∧ c ≤ c' ∧ c' < c + n ∧ c' < s.width.toNat then f (c' - c) else pixel s r' c' := by
  induction n with
  | zero => rw [if_neg (by omega)]; rfl
  | succ n ih =>
    rw [List.range_succ, List.foldl_append, List.foldl_cons, List.foldl_nil]
    have hx : Writable ((List.range n).foldl (fun x t => setPixel r (c + t) (f t) x) s) :=
      List.foldlRecOn _ _ hs fun _ hx _ _ => writable_setPixel _ _ _ hx
    have hheight := foldl_setPixel_keeps State.height setPixel_height r (c + ·) f (List.range n) s
    have hwidth := foldl_setPixel_keeps State.width setPixel_width r (c + ·) f (List.range n) s
    rw [pixel_setPixel _ hx (hheight ▸ hr) hr', ih, hwidth]
    by_cases hn : c' = c + n
    · subst hn
      simp
    · have hiff : c' < c + (n + 1) ↔ c' < c + n := by omega
      simp [hn, hiff]

theorem pixel_setByte {r' c' : Nat} (b : Byte) {s : State} (hs : Writable s) (hr : s.row.toNat < s.height.toNat)
    (hr' : r' < Config.maxHeight) :
    pixel (setByte b s) r' c' =
      if r' = s.row.toNat ∧ s.col.toNat ≤ c' ∧ c' < s.col.toNat + 8 ∧ c' < s.width.toNat
      then b.getLsbD (7 - (c' - s.col.toNat)) else pixel s r' c' :=
  pixel_foldl_setPixel (fun t => b.getLsbD (7 - t)) hs hr hr' 8

/-! The position after n pixels of a row, and FULL (R131 to R133). -/

/-- The next position n columns on, or at the next row where n columns reach the width. -/
def movePos (n : Nat) (s : State) : State :=
  if s.width.toNat ≤ s.col.toNat + n then setPos (s.row + 1#8) 0#24 s
  else setPos s.row (s.col + BitVec.ofNat 24 n) s

theorem asciiPixel_eq_movePos {b : Byte} {s : State} (hb : b = 0x30#8 ∨ b = 0x31#8)
    (hc : s.col.toNat < s.width.toNat) :
    asciiPixel b s = movePos 1 (setPixel s.row.toNat s.col.toNat (decide (b = 0x31#8)) s) := by
  have hiff : s.col.toNat + 1 = s.width.toNat ↔ s.width.toNat ≤ s.col.toNat + 1 := by omega
  simp only [asciiPixel, if_pos hb, movePos, hiff, setPixel_width, setPixel_col, setPixel_row,
    beq_eq_decide]

theorem binaryPixel_eq_movePos (b : Byte) (s : State) : binaryPixel b s = movePos 8 (setByte b s) := by
  simp only [binaryPixel, movePos, setByte_width, setByte_col, setByte_row]

@[simp] theorem pixel_movePos (n : Nat) (s : State) (r c : Nat) : pixel (movePos n s) r c = pixel s r c := by
  unfold movePos
  split <;> exact pixel_setPos ..

/-- `MovedOn n s t`: t is n pixels of a row on from s, with the bitmap full at the end of its last row. -/
def MovedOn (n : Nat) (s t : State) : Prop :=
  (s.col.toNat + n < s.width.toNat →
    t.col.toNat = s.col.toNat + n ∧ t.row = s.row ∧ t.pstate = .pix ∧ t.filled = s.filled) ∧
  (s.width.toNat ≤ s.col.toNat + n → t.col = 0#24 ∧ t.row.toNat = s.row.toNat + 1 ∧
    (s.row.toNat + 1 < s.height.toNat → t.pstate = .pix ∧ t.filled = s.filled) ∧
    (s.row.toNat + 1 = s.height.toNat → t.pstate = .full ∧ t.filled = true))

theorem movedOn_checkFull_movePos {n : Nat} {s x : State} (hx : ∃ m, x = { s with buf := m }) (hp : s.pstate = .pix)
    (hr : s.row.toNat < s.height.toNat) : MovedOn n s (checkFull (movePos n x)) := by
  obtain ⟨m, rfl⟩ := hx
  have hwidth := s.width.isLt
  have hheight := s.height.isLt
  constructor
  · intro hin
    have hrow : s.row ≠ s.height := by bv_omega
    rw [movePos, if_neg (by exact Nat.not_le.mpr hin), checkFull, if_neg (by exact hrow)]
    exact ⟨by simp only [setPos_col, BitVec.toNat_add, BitVec.toNat_ofNat]; omega, rfl, hp, rfl⟩
  · intro hout
    have hrow : (s.row + 1#8).toNat = s.row.toNat + 1 := by bv_omega
    rw [movePos, if_pos hout, checkFull]
    split
    next hfull =>
      change s.row + 1#8 = s.height at hfull
      exact ⟨rfl, hrow, fun hlt => absurd (hrow.symm.trans (congrArg BitVec.toNat hfull)) hlt.ne, fun _ => ⟨rfl, rfl⟩⟩
    next hfull =>
      change s.row + 1#8 ≠ s.height at hfull
      exact ⟨rfl, hrow, fun _ => ⟨hp, rfl⟩, fun heq => absurd (BitVec.eq_of_toNat_eq (hrow.trans heq)) hfull⟩

/-- What a byte of pixel data leaves: all but the position, FILLED, PSTATE and BUF. -/
def PixelFrame (s t : State) : Prop :=
  t.fmt = s.fmt ∧ t.width = s.width ∧ t.height = s.height ∧ t.acc = s.acc ∧ t.perr = s.perr ∧ t.cerr = s.cerr ∧
    SameEncoder s t ∧ SameOutside s t

theorem pixelFrame_scanPix (b : Byte) (s : State) : PixelFrame s (scanPix b s) := by
  refine scanPix_keeps (P := PixelFrame s) (fun _ _ _ _ h => ?_) (fun _ _ _ h => h) (fun h => h) b ?_
  · simpa [PixelFrame, SameEncoder, SameOutside] using h
  · simp [PixelFrame, SameEncoder, SameOutside]

/-- Settles O28: one pixel, then the position one column on. -/
theorem feedAsciiPixel : Obligations.FeedAsciiPixel := by
  intro s b hp hfmt hwf hr hh hc hw
  have hs : Writable s := ⟨hwf, hw, hh⟩
  have hfeed : exec (.feed b) s = .next (scanPix b s) := by rw [exec_feed_of_open hp (by decide), scan_of_pix b hp]
  rw [hfeed]
  constructor
  · intro h0 h1
    have hrow : s.row ≠ s.height := by bv_omega
    simp [scanPix, hfmt, asciiPixel, h0, h1, checkFull, hrow]
  · intro hb
    have hscan : scanPix b s = checkFull (movePos 1 (setPixel s.row.toNat s.col.toNat (decide (b = 0x31#8)) s)) := by
      rw [scanPix, if_pos hfmt, asciiPixel_eq_movePos hb hc]
    obtain ⟨hin, hlast⟩ := movedOn_checkFull_movePos (n := 1)
      (setPixel_eq s.row.toNat s.col.toNat (decide (b = 0x31#8)) s) hp hr
    have hframe := pixelFrame_scanPix b s
    rw [hscan] at hframe ⊢
    refine ⟨_, rfl, ?_, fun r c hr' hother => ?_, hin, fun hend => hlast hend.ge, hframe⟩
    · rw [pixel_checkFull, pixel_movePos, pixel_setPixel _ hs hr (hr.trans_le hh), if_pos ⟨rfl, rfl, hc⟩]
    · rw [pixel_checkFull, pixel_movePos, pixel_setPixel _ hs hr hr', if_neg fun h => hother ⟨h.1, h.2.1⟩]

/-- Settles O29: eight pixels, then the position eight columns on. -/
theorem feedBinaryPixels : Obligations.FeedBinaryPixels := by
  intro s b hp hfmt hwf hr hh hc hw
  have hs : Writable s := ⟨hwf, hw, hh⟩
  have hfeed : exec (.feed b) s = .next (scanPix b s) := by rw [exec_feed_of_open hp (by decide), scan_of_pix b hp]
  have hscan : scanPix b s = checkFull (movePos 8 (setByte b s)) := by
    rw [scanPix, if_neg (by simp [hfmt]), binaryPixel_eq_movePos]
  obtain ⟨hin, hlast⟩ := movedOn_checkFull_movePos (n := 8) (setByte_eq b s) hp hr
  have hframe := pixelFrame_scanPix b s
  rw [hscan] at hfeed hframe
  refine ⟨_, hfeed, fun k hk hcol => ?_, fun r c hr' hother => ?_, hin, hlast, hframe⟩
  · rw [pixel_checkFull, pixel_movePos, pixel_setByte b hs hr (hr.trans_le hh), if_pos (by omega),
      Nat.add_sub_cancel_left]
  · rw [pixel_checkFull, pixel_movePos, pixel_setByte b hs hr hr', if_neg hother]

end Sys2Proof.Machine
end

section
/-! PROOFS. FEED_END state by state, what FEED and FEED_END leave unchanged, and BUFRD (41_extractor.md R110 to R112,
R131 to R136). -/

namespace Sys2Proof.Machine

/-- Settles O30: the stream ends in a state that takes it, is past it, or still lacks a token. -/
theorem feedEndByState : Obligations.FeedEndByState := by
  refine fun s => ⟨exec_of_closed (.inl rfl), ?_, fun hp hzero => ?_, fun hp hacc hle => ?_, fun hp => ?_, ?_⟩
  · rintro (hp | hp | hp) <;> simp only [exec_feedEnd_of_open hp (by decide), scanEnd, hp]
  · simp only [exec_feedEnd_of_open hp (by decide), scanEnd, hp, goUnlessError_endHeight_of_zero _ hzero]
    rfl
  · simp only [exec_feedEnd_of_open hp (by decide), scanEnd, hp, Host.Outcome.next.injEq]
    exact exists_goUnlessError_endHeight_eq .ended hacc (by simp [hp]) hle
  · simp only [exec_feedEnd_of_open hp (by decide), scanEnd, hp]
  · rintro (hp | hp | hp | hp | hp | hp | hp | hp) <;>
      simp only [exec_feedEnd_of_open hp (by decide), scanEnd, hp, raiseFormatError]

/-! The bytes of BUF that a byte of pixel data leaves (R131, R132, R134). -/

@[simp] theorem checkFull_buf (s : State) : (checkFull s).buf = s.buf := by
  unfold checkFull
  split <;> rfl

/-- A pixel inside the width has one byte of BUF, and one outside it is dropped. -/
theorem setPixel_buf_read {r c a : Nat} (black : Bool) {s : State} (h : c < s.width.toNat → a ≠ bufAddr c (r / 8)) :
    (setPixel r c black s).buf.read a = s.buf.read a := by
  by_cases hc : c < s.width.toNat
  · exact setPixel_buf_read_other r c black s (h hc)
  · rw [setPixel_outside black (.inr (Nat.not_lt.mp hc))]

theorem asciiPixel_buf_read {a : Nat} (b : Byte) {s : State}
    (h : s.col.toNat < s.width.toNat → a ≠ bufAddr s.col.toNat (s.row.toNat / 8)) :
    (asciiPixel b s).buf.read a = s.buf.read a := by
  simp only [asciiPixel]
  split
  · split <;> rw [setPos_buf, setPixel_buf_read _ h]
  · rfl

theorem setByte_buf_read {a : Nat} (b : Byte) {s : State}
    (h : ∀ k, k < 8 → s.col.toNat + k < s.width.toNat → a ≠ bufAddr (s.col.toNat + k) (s.row.toNat / 8)) :
    (setByte b s).buf.read a = s.buf.read a := by
  have hfold := List.foldlRecOn (motive := fun x => x.width = s.width ∧ x.buf.read a = s.buf.read a)
    (List.range 8) (fun x t => setPixel s.row.toNat (s.col.toNat + t) (b.getLsbD (7 - t)) x) ⟨rfl, rfl⟩
    fun x hx k hk => by
      obtain ⟨hwidth, hread⟩ := hx
      refine ⟨(setPixel_width ..).trans hwidth, (setPixel_buf_read _ ?_).trans hread⟩
      exact hwidth ▸ h k (List.mem_range.mp hk)
  exact hfold.2

theorem binaryPixel_buf_read {a : Nat} (b : Byte) {s : State}
    (h : ∀ k, k < 8 → s.col.toNat + k < s.width.toNat → a ≠ bufAddr (s.col.toNat + k) (s.row.toNat / 8)) :
    (binaryPixel b s).buf.read a = s.buf.read a := by
  simp only [binaryPixel]
  split <;> rw [setPos_buf, setByte_buf_read b h]

theorem scanPix_buf_read {a : Nat} (b : Byte) {s : State}
    (h : ∀ k, k < 8 → s.col.toNat + k < s.width.toNat → a ≠ bufAddr (s.col.toNat + k) (s.row.toNat / 8)) :
    (scanPix b s).buf.read a = s.buf.read a := by
  rw [scanPix, checkFull_buf]
  split
  · exact asciiPixel_buf_read b (h 0 (by decide))
  · exact binaryPixel_buf_read b h

theorem scanPix_buf_read_of_ascii {a : Nat} (b : Byte) {s : State} (hfmt : s.fmt = .ascii)
    (h : a ≠ bufAddr s.col.toNat (s.row.toNat / 8)) : (scanPix b s).buf.read a = s.buf.read a := by
  rw [scanPix, checkFull_buf, if_pos hfmt]
  exact asciiPixel_buf_read b fun _ => h

theorem scan_buf_of_ne_pix (b : Byte) {s : State} (hp : s.pstate ≠ .pix) : (scan b s).buf = s.buf :=
  ((Advances.scan b s).filled_buf_eq hp).2

/-- What holds of BUF where pixel data is written holds of it wherever a byte is scanned. -/
theorem scan_buf_read {a : Nat} {b : Byte} {s : State} (h : (scanPix b s).buf.read a = s.buf.read a) :
    (scan b s).buf.read a = s.buf.read a := by
  by_cases hp : s.pstate = .pix
  · rw [scan_of_pix b hp, h]
  · rw [scan_buf_of_ne_pix b hp]

/-- The end of the stream writes neither BUF, the mode, FILLED nor the width (R136). -/
theorem scanEnd_keeps (s : State) :
    (scanEnd s).buf = s.buf ∧ (scanEnd s).fmt = s.fmt ∧ (scanEnd s).filled = s.filled ∧
      (scanEnd s).width = s.width := by
  have hheight : (endHeight s).buf = s.buf ∧ (endHeight s).fmt = s.fmt ∧ (endHeight s).filled = s.filled ∧
      (endHeight s).width = s.width := by
    unfold endHeight
    split <;> exact ⟨rfl, rfl, rfl, rfl⟩
  unfold scanEnd
  split
  case h_8 => simpa using hheight
  all_goals exact ⟨rfl, rfl, rfl, rfl⟩

/-- Two states that agree on all that the scanner does not write. -/
theorem sameOutside_of_scannerBlind {s t : State} (h : ∀ {α : Type} {f : State → α}, ScannerBlind f → f t = f s) :
    SameEncoder s t ∧ SameOutside s t ∧ t.cerr = s.cerr := by
  have houtside := h scannerBlind_outside
  simp only [Prod.mk.injEq] at houtside
  simp [SameEncoder, SameOutside, houtside]

/-- FEED and FEED_END with an open stream leave what the scanner does not write; without one they write CERR alone. -/
theorem Executes.stream_frame {s t : State} {i : Instr} (h : Executes s i t) (hi : i.UsesStream) :
    SameEncoder s t ∧ SameOutside s t ∧
      (t.cerr = s.cerr ∨ (s.pstate = .idle ∨ s.pstate = .ended) ∧ s.cerr = .none ∧ t.cerr = .sequence) := by
  cases h with
  | operandRange hwf => obtain rfl | ⟨b, rfl⟩ := hi <;> cases hwf
  | sequence _ hclosed =>
    refine ⟨by simp [SameEncoder], sameOutside_raiseCmdError _ _, ?_⟩
    exact (raiseCmdError_cerr_cases _ _).imp_right fun hcerr => ⟨noStream_iff.mp hclosed, hcerr⟩
  | feed b =>
    obtain ⟨henc, hout, hcerr⟩ := sameOutside_of_scannerBlind fun hf => hf.scan b s
    exact ⟨henc, hout, .inl hcerr⟩
  | feedEnd =>
    obtain ⟨henc, hout, hcerr⟩ := sameOutside_of_scannerBlind fun hf => hf.scanEnd s
    exact ⟨henc, hout, .inl hcerr⟩
  | nop | sreset | jobStart | bufrd | loadcol | setcol | encode | outrd | colrd => simp [Instr.UsesStream] at hi

/-- Settles O32: only PIX writes BUF, and there only the bytes of its pixels. -/
theorem feedFrame : Obligations.FeedFrame := by
  constructor
  · intro s t b hexec
    have h := executes_of_exec hexec
    obtain ⟨hencoder, houtside, hcerr⟩ := h.stream_frame (.inr ⟨b, rfl⟩)
    refine ⟨hencoder, houtside, hcerr, ?_⟩
    cases h with
    | operandRange hwf => cases hwf
    | sequence => simp
    | feed =>
      exact ⟨scan_buf_of_ne_pix b, fun hfmt a ha => scan_buf_read (scanPix_buf_read_of_ascii b hfmt ha),
        fun a ha => scan_buf_read (scanPix_buf_read b ha)⟩
  · intro s t hexec
    have h := executes_of_exec hexec
    obtain ⟨hencoder, houtside, hcerr⟩ := h.stream_frame (.inl rfl)
    have hkeeps : t.buf = s.buf ∧ t.fmt = s.fmt ∧ t.filled = s.filled ∧ t.width = s.width := by
      cases h with
      | operandRange hwf => cases hwf
      | sequence => simp
      | feedEnd => exact scanEnd_keeps s
    obtain ⟨hbuf, hfmt, hfilled, hwidth⟩ := hkeeps
    exact ⟨hencoder, houtside, hbuf, hfmt, hfilled, hwidth, hcerr⟩

/-- A byte of BUF is 0 where its eight pixels are white. -/
theorem bufRead_eq_zero {s : State} {c k : Nat} (h : ∀ r, r / 8 = k → pixel s r c = false) : bufRead s c k = 0#8 := by
  refine BitVec.eq_of_getLsbD_eq fun j hj => ?_
  have hpixel := h (8 * k + (7 - j)) (by omega)
  rw [pixel, show (8 * k + (7 - j)) / 8 = k by omega, show 7 - (8 * k + (7 - j)) % 8 = j by omega] at hpixel
  rw [hpixel, BitVec.getLsbD_zero]

/-- A byte of a column past the width is 0 where the pixels outside the bitmap are white (10_state.md R29). -/
theorem bufRead_past_width {s : State} {c k : Nat} (hs : OutsideWhite s) (hc : s.width.toNat ≤ c)
    (hk : k < Config.colBytes) : bufRead s c k = 0#8 :=
  bufRead_eq_zero fun r hr => hs r c (by simp only [Config.maxHeight]; omega) (.inr hc)

/-- Settles O31: the word, the two sides of the range check, and the white columns. -/
theorem bufrdReadsTheBuffer : Obligations.BufrdReadsTheBuffer := by
  intro s c k
  refine ⟨decodeOfEncode (.bufrd c k), fun hc => if_pos (decide_eq_true hc), fun hc => ?_,
    fun hwhite hc => bufRead_past_width hwhite hc k.isLt⟩
  rw [exec_of_not_wellFormed (i := .bufrd c k) (s := s) (decide_eq_false (Nat.not_lt.mpr hc)), raiseCmdError_eq]

end Sys2Proof.Machine
end

section
/-! PROOFS. The spec's decoding oracle inverts the encoder (42_encoder.md R160 to R165). -/

namespace Sys2Proof.Machine

/-! The two runs of a payload (R160): their lengths, and one equation for each. -/

theorem take_leading (b : Byte) (xs : List Byte) : xs.take (leading b xs) = List.replicate (leading b xs) b := by
  induction xs with
  | nil => rfl
  | cons x xs ih =>
    unfold leading
    split
    · rw [List.take_succ_cons, List.replicate_succ, ih, ‹x = b›]
    · rfl

theorem take_runLen (x : Byte) (xs : List Byte) :
    (x :: xs).take (runLen (x :: xs)) = List.replicate (runLen (x :: xs)) x :=
  congrArg (x :: ·) (take_leading x xs)

theorem literalRest_le_length (taken : Nat) (xs : List Byte) : literalRest taken xs ≤ xs.length := by
  induction xs generalizing taken with
  | nil => exact le_rfl
  | cons x xs ih =>
    unfold literalRest
    split
    · exact Nat.succ_le_succ (ih _)
    · exact Nat.zero_le _

theorem payloadFrom_of_long (fuel : Nat) {x : Byte} {xs : List Byte} (h : 2 < runLen (x :: xs)) :
    payloadFrom (fuel + 1) (x :: xs) =
      repeatCount (runLen (x :: xs)) :: x :: payloadFrom fuel ((x :: xs).drop (runLen (x :: xs))) := if_pos h

theorem payloadFrom_of_short (fuel : Nat) {x : Byte} {xs : List Byte} (h : ¬ 2 < runLen (x :: xs)) :
    payloadFrom (fuel + 1) (x :: xs) =
      literalCount (literalRest 1 xs + 1) :: (x :: xs).take (literalRest 1 xs + 1) ++
        payloadFrom fuel ((x :: xs).drop (literalRest 1 xs + 1)) := if_neg h

/-! The oracle on one run (R163, R164). -/

theorem toInt_repeatCount {r : Nat} (h : r ≤ 129) : (repeatCount r).toInt = 1 - r :=
  BitVec.toInt_ofInt_eq_self (by decide) (by omega) (by omega)

theorem toNat_literalCount {n : Nat} (h : n ≤ 256) : (literalCount n).toNat = n - 1 := by
  rw [literalCount, BitVec.toNat_ofNat]
  exact Nat.mod_eq_of_lt (by omega)

theorem decodePayload_nil (fuel : Nat) : decodePayload fuel [] = some [] := by cases fuel <;> rfl

/-- A repeat-run gives its byte r times: its count byte is negative. -/
theorem decodePayload_repeat (fuel : Nat) {r : Nat} (hr : 1 < r) (hr' : r ≤ 129) (v : Byte) (p : List Byte) :
    decodePayload (fuel + 1) (repeatCount r :: v :: p) = (decodePayload fuel p).map (List.replicate r v ++ ·) := by
  have hint := toInt_repeatCount hr'
  have hneg : 2 ^ 8 ≤ 2 * (repeatCount r).toNat := BitVec.toInt_neg_iff.mp (by omega)
  refine (if_pos (by omega)).trans ?_
  rw [show (1 - (repeatCount r).toInt).toNat = r by omega]

/-- A literal-run gives its bytes: its count byte is not negative. -/
theorem decodePayload_literal (fuel : Nat) {n : Nat} {bytes : List Byte} (hbytes : bytes.length = n) (hpos : 0 < n)
    (hn : n ≤ 128) (p : List Byte) :
    decodePayload (fuel + 1) (literalCount n :: (bytes ++ p)) = (decodePayload fuel p).map (bytes ++ ·) := by
  have hcount := toNat_literalCount (n := n) (by omega)
  refine (if_neg (by omega)).trans ((if_neg (by rw [List.length_append]; omega)).trans ?_)
  rw [show (literalCount n).toNat + 1 = bytes.length by omega, List.take_left, List.drop_left]

/-- The first run of a payload: it takes some bytes of the column, and the oracle gives back those it took. -/
theorem exists_firstRun (fuel : Nat) {x : Byte} {xs : List Byte} (hlen : (x :: xs).length ≤ Config.colBytes) :
    ∃ n run, 0 < n ∧ run ≠ [] ∧ payloadFrom (fuel + 1) (x :: xs) = run ++ payloadFrom fuel ((x :: xs).drop n) ∧
      ∀ dfuel p, decodePayload (dfuel + 1) (run ++ p) = (decodePayload dfuel p).map ((x :: xs).take n ++ ·) := by
  by_cases hlong : 2 < runLen (x :: xs)
  · have hrun := (runLen_le_length (x :: xs)).trans hlen
    refine ⟨runLen (x :: xs), [repeatCount (runLen (x :: xs)), x], by omega, List.cons_ne_nil _ _,
      payloadFrom_of_long fuel hlong, fun dfuel p => ?_⟩
    rw [take_runLen]
    exact decodePayload_repeat dfuel (by omega) (hrun.trans (by decide)) x p
  · have hlit : literalRest 1 xs + 1 ≤ (x :: xs).length := Nat.succ_le_succ (literalRest_le_length 1 xs)
    exact ⟨literalRest 1 xs + 1, literalCount (literalRest 1 xs + 1) :: (x :: xs).take (literalRest 1 xs + 1),
      Nat.succ_pos _, List.cons_ne_nil _ _, payloadFrom_of_short fuel hlong, fun dfuel p =>
        decodePayload_literal dfuel (List.length_take_of_le hlit) (Nat.succ_pos _)
          (hlit.trans (hlen.trans (by decide))) p⟩

/-- Decoding a payload gives back the bytes it was made from. -/
theorem decodePayload_payloadFrom {fuel dfuel : Nat} {xs : List Byte} (hfuel : xs.length ≤ fuel)
    (hlen : xs.length ≤ Config.colBytes) (hdfuel : (payloadFrom fuel xs).length ≤ dfuel) :
    decodePayload dfuel (payloadFrom fuel xs) = some xs := by
  induction fuel generalizing xs dfuel with
  | zero => rw [List.eq_nil_of_length_eq_zero (Nat.le_zero.mp hfuel), payloadFrom_nil, decodePayload_nil]
  | succ fuel ih =>
    cases xs with
    | nil => rw [payloadFrom_nil, decodePayload_nil]
    | cons x xs =>
      obtain ⟨n, run, hn, hrun, hpayload, hdecode⟩ := exists_firstRun fuel hlen
      have hrun := List.length_pos_iff.mpr hrun
      have hdrop := List.length_drop (i := n) (l := x :: xs)
      rw [hpayload, List.length_append] at hdfuel
      cases dfuel with
      | zero => omega
      | succ dfuel =>
        rw [hpayload, hdecode, ih (by omega) (by omega) (by omega), Option.map_some, List.take_append_drop]

/-- The two bytes of a length, read as R161 writes them. -/
theorem toNat_lengthBytes {l : Nat} (h : l < 2 ^ 16) :
    (BitVec.ofNat 8 l).toNat + 256 * (BitVec.ofNat 8 (l / 256)).toNat = l := by
  simp only [BitVec.toNat_ofNat]
  omega

theorem encodeChunk_of_allZero {c : Vector Byte Config.colBytes} (h : allZero c = true) : encodeChunk c = [0x5A#8] :=
  if_pos h

theorem encodeChunk_of_not_allZero {c : Vector Byte Config.colBytes} (h : ¬ allZero c = true) :
    encodeChunk c = [0x47#8, BitVec.ofNat 8 (payload c).length, BitVec.ofNat 8 ((payload c).length / 256)] ++ payload c :=
  if_neg h

theorem allZero_iff {x : Vector Byte Config.colBytes} :
    allZero x = true ↔ ∀ k, (h : k < Config.colBytes) → x[k] = 0#8 := by
  simp [allZero]

theorem toList_of_allZero {x : Vector Byte Config.colBytes} (h : allZero x = true) :
    x.toList = List.replicate Config.colBytes 0#8 :=
  List.eq_replicate_iff.mpr ⟨Vector.length_toList, fun _ hb => eq_of_beq (List.all_eq_true.mp h _ hb)⟩

theorem decodePayload_payload (c : Vector Byte Config.colBytes) :
    decodePayload (payload c).length (payload c) = some c.toList :=
  decodePayload_payloadFrom Vector.length_toList.le Vector.length_toList.le le_rfl

/-- Settles O41: an all-zero column is the sentinel's, and any other is read back run by run. -/
theorem decodeOfEncodedColumn : Obligations.DecodeOfEncodedColumn := by
  intro c
  by_cases hzero : allZero c = true
  · rw [encodeChunk_of_allZero hzero, toList_of_allZero hzero, decodeChunk]
  · have hlen := length_payload c
    rw [encodeChunk_of_not_allZero hzero]
    simp only [List.cons_append, List.nil_append, decodeChunk, toNat_lengthBytes (l := (payload c).length) (by omega)]
    rw [if_neg (lt_irrefl _), List.take_length, decodePayload_payload]

end Sys2Proof.Machine
end

section
/-! PROOFS. The form and the bounds of a chunk, and ENCODE (42_encoder.md R152, R161, R162, R166). -/

namespace Sys2Proof.Machine

/-- Settles O40: the two cases of EncodeChunk, with the length read back from its two bytes. -/
theorem chunkForm : Obligations.ChunkForm := by
  intro x
  rw [← allZero_iff]
  refine ⟨encodeChunk_of_allZero, fun hzero => ⟨_, _, encodeChunk_of_not_allZero hzero, toNat_lengthBytes ?_⟩⟩
  have hlen := length_payload x
  omega

theorem length_encodeChunk_eq (x : Vector Byte Config.colBytes) :
    (encodeChunk x).length = if allZero x then 1 else 3 + (payload x).length := by
  split
  next hzero => rw [encodeChunk_of_allZero hzero, List.length_singleton]
  next hzero => rw [encodeChunk_of_not_allZero hzero, List.length_append]; rfl

theorem toNat_outlen_encode (x : Vector Byte Config.colBytes) :
    (BitVec.ofNat 32 (encodeChunk x).length).toNat = (encodeChunk x).length := by
  have hlen := length_encodeChunk x
  rw [BitVec.toNat_ofNat]
  exact Nat.mod_eq_of_lt (by omega)

/-- OUT holds the chunk, then zeros (R162). -/
theorem getElem_outOf (chunk : List Byte) {i : Nat} (hi : i < Config.outCap) :
    (outOf chunk)[i] = if h : i < chunk.length then chunk[i] else 0#8 := by
  split
  next h => simp [outOf, h]
  next h => exact getElem_outOf_of_le chunk hi (Nat.le_of_not_lt h)

/-- Settles O36: OUT and OUTLEN are those of the chunk of COLREG. -/
theorem encodeWritesTheChunk : Obligations.EncodeWritesTheChunk := fun s =>
  ⟨_, rfl, rfl, toNat_outlen_encode s.colreg, fun _ hi => getElem_outOf _ hi,
    (toNat_outlen_encode s.colreg).trans (length_encodeChunk_eq s.colreg)⟩

/-- Settles O42: the length of a payload is below 256, so it is its low byte. -/
theorem chunkBounds : Obligations.ChunkBounds := by
  refine ⟨fun x hx => ?column, fun s t hexec => ?outlen, statusWord_eerr⟩
  case column =>
    have hpayload := length_payload x
    have hzero := mt allZero_iff.mp hx
    have hlen := length_encodeChunk_eq x
    rw [if_neg hzero] at hlen
    have hmsb : (payload x).length / 256 = 0 := by omega
    refine ⟨by omega, by omega, by omega, by omega, ?_⟩
    rw [encodeChunk_of_not_allZero hzero, hmsb]
    rfl
  case outlen =>
    cases hexec
    exact (toNat_outlen_encode s.colreg).symm ▸ length_encodeChunk s.colreg

end Sys2Proof.Machine
end

section
/-! PROOFS. LOADCOL, SETCOL, OUTRD and COLRD, with their malformed words (42_encoder.md R150, R151, R153, R154). -/

namespace Sys2Proof.Machine

/-- A command with an index out of range, as one record (30_encoding.md R72, 60_exceptions.md R185). -/
theorem exec_eq_afterCmdError_of_not_wellFormed {i : Instr} {s : State} (h : i.WellFormed s.maxColumns = false) :
    exec i s = .next (afterCmdError .operandRange s) := by
  rw [exec_of_not_wellFormed h, raiseCmdError_eq]

/-- Settles O35: the word is SETCOL's, and writing a vector's element keeps the others. -/
theorem setcolWritesOneByte : Obligations.SetcolWritesOneByte := by
  refine fun s => ⟨fun k v => ⟨decodeOfEncode (.setcol k v), _, rfl, rfl, fun j hj => ?_⟩,
    fun _ hop hset => command_of_reserved_slice (m := .setcol) hop rfl hset s⟩
  simp only [Vector.getElem_set, eq_comm]

/-- Settles O38: the word is COLRD's, and every index is in range. -/
theorem colrdReadsColreg : Obligations.ColrdReadsColreg := fun s =>
  ⟨fun k => ⟨decodeOfEncode (.colrd k), rfl⟩,
    fun _ hop hset => command_of_reserved_slice (m := .colrd) hop rfl hset s⟩

theorem exec_outrd_of_lt {i : BitVec 6} (s : State) (h : i.toNat < Config.outCap) :
    exec (.outrd i) s = .next { s with rdata := s.out[i.toNat] } := by
  refine (if_pos (decide_eq_true h)).trans ?_
  simp [h]

/-- Settles O37: the word, the two sides of the range check, and the zeros past OUTLEN. -/
theorem outrdReadsOut : Obligations.OutrdReadsOut := by
  refine fun s => ⟨fun i => ⟨decodeOfEncode (.outrd i), fun hi => ?inside, fun hi => ?outside⟩,
    fun _ hop hset => command_of_reserved_slice (m := .outrd) hop rfl hset s⟩
  case inside => exact ⟨exec_outrd_of_lt s hi, fun ⟨_, hzero⟩ => hzero i.toNat hi⟩
  case outside => exact exec_eq_afterCmdError_of_not_wellFormed (decide_eq_false (Nat.not_lt.mpr hi))

/-- A column past the width is zero where the pixels outside the bitmap are white (10_state.md R29). -/
theorem bufColumn_past_width {s : State} {c : Nat} (hs : OutsideWhite s) (hc : s.width.toNat ≤ c) :
    bufColumn s c = Vector.replicate Config.colBytes 0#8 := by
  refine Vector.ext fun k hk => ?_
  rw [bufColumn, Vector.getElem_ofFn, Vector.getElem_replicate]
  exact bufRead_past_width hs hc hk

/-- Settles O34: the word, the two sides of the range check, and the white columns. -/
theorem loadcolCopiesTheColumn : Obligations.LoadcolCopiesTheColumn := by
  refine fun s => ⟨fun c => ⟨decodeOfEncode (.loadcol c), fun hc => ?inside, fun hc => ?outside⟩,
    fun _ hop hset => command_of_reserved_slice (m := .loadcol) hop rfl hset s⟩
  case inside =>
    exact ⟨_, if_pos (decide_eq_true hc), rfl, fun _ hk => Vector.getElem_ofFn hk, bufColumn_past_width⟩
  case outside => exact exec_eq_afterCmdError_of_not_wellFormed (decide_eq_false (Nat.not_lt.mpr hc))

end Sys2Proof.Machine
end

section
/-! PROOFS. The payload at every position of a column (42_encoder.md R160, R163, R164, R168). -/

namespace Sys2Proof.Machine

/-! A run at a position is a run at the front of the bytes left there (R160). -/

theorem getElem?_leading_ne (b : Byte) (xs : List Byte) : xs[leading b xs]? ≠ some b := by
  induction xs with
  | nil => simp
  | cons x xs ih =>
    unfold leading
    split
    · rwa [List.getElem?_cons_succ]
    · simpa using ‹¬ x = b›

theorem getElem?_of_lt_runLen {xs : List Byte} {t : Nat} (h : t < runLen xs) : xs[t]? = xs[0]? := by
  cases xs with
  | nil => simp [runLen] at h
  | cons x xs => rw [← List.getElem?_take_of_lt h, take_runLen, List.getElem?_replicate_of_lt h]; rfl

theorem getElem?_runLen_ne {xs : List Byte} (h : xs ≠ []) : xs[runLen xs]? ≠ xs[0]? := by
  cases xs with
  | nil => exact absurd rfl h
  | cons x xs => simpa [runLen] using getElem?_leading_ne x xs

/-- The bytes of a column from position i on. -/
def bytesFrom (x : Vector Byte Config.colBytes) (i : Nat) : List Byte := x.toList.drop i

@[simp] theorem length_bytesFrom (x : Vector Byte Config.colBytes) (i : Nat) :
    (bytesFrom x i).length = Config.colBytes - i := by
  rw [bytesFrom, List.length_drop, Vector.length_toList]

@[simp] theorem drop_bytesFrom (x : Vector Byte Config.colBytes) (i n : Nat) :
    (bytesFrom x i).drop n = bytesFrom x (i + n) := List.drop_drop

theorem getElem?_bytesFrom (x : Vector Byte Config.colBytes) (i t : Nat) : (bytesFrom x i)[t]? = x[i + t]? := by
  rw [bytesFrom, List.getElem?_drop, Vector.getElem?_toList]

theorem bytesFrom_eq_cons (x : Vector Byte Config.colBytes) {i : Nat} (h : i < Config.colBytes) :
    bytesFrom x i = x[i] :: bytesFrom x (i + 1) := by
  rw [bytesFrom, List.drop_eq_getElem_cons (by simpa using h), Vector.getElem_toList, bytesFrom]

theorem runLenIs_runLen (x : Vector Byte Config.colBytes) {i : Nat} (h : i < Config.colBytes) :
    RunLenIs x i (runLen (bytesFrom x i)) := by
  have hle := runLen_le_length (bytesFrom x i)
  rw [length_bytesFrom] at hle
  refine ⟨?_, by omega, fun t ht => ?_, fun _ => ?_⟩
  · rw [bytesFrom_eq_cons x h]
    exact Nat.succ_pos _
  · simpa only [getElem?_bytesFrom, Nat.add_zero] using getElem?_of_lt_runLen ht
  · have hne : bytesFrom x i ≠ [] := by simp [bytesFrom_eq_cons x h]
    simpa only [getElem?_bytesFrom, Nat.add_zero] using getElem?_runLen_ne hne

/-- No run at a position is longer than another: the longer one would go on where the other ends. -/
theorem RunLenIs.le {x : Vector Byte Config.colBytes} {i r r' : Nat} (h : RunLenIs x i r) (h' : RunLenIs x i r') :
    r' ≤ r := by
  obtain ⟨-, -, -, hend⟩ := h
  obtain ⟨-, hin', heq', -⟩ := h'
  by_contra hlt
  exact hend (by omega) (heq' r (by omega))

/-- RunLen of the statements is the encoder's. -/
theorem runLenIs_iff {x : Vector Byte Config.colBytes} {i r : Nat} (h : i < Config.colBytes) :
    RunLenIs x i r ↔ r = runLen (bytesFrom x i) :=
  ⟨fun hr => (RunLenIs.le (runLenIs_runLen x h) hr).antisymm (hr.le (runLenIs_runLen x h)),
    fun hr => hr ▸ runLenIs_runLen x h⟩

theorem longRunAt_iff {x : Vector Byte Config.colBytes} {i : Nat} :
    LongRunAt x i ↔ 2 < runLen (bytesFrom x i) := by
  constructor
  · rintro ⟨r, hr, hrun⟩
    have hi : i < Config.colBytes := by obtain ⟨hpos, hin, -, -⟩ := hrun; omega
    rwa [← (runLenIs_iff hi).mp hrun]
  · intro hlong
    have hle := runLen_le_length (bytesFrom x i)
    rw [length_bytesFrom] at hle
    exact ⟨_, hlong, runLenIs_runLen x (by omega)⟩

/-! A literal-run takes no byte where a run of more than 2 begins (R164). -/

theorem runLen_drop_le_of_lt_literalRest {taken t : Nat} {xs : List Byte} (h : t < literalRest taken xs) :
    runLen (xs.drop t) ≤ 2 := by
  induction xs generalizing taken t with
  | nil => simp [literalRest] at h
  | cons x xs ih =>
    unfold literalRest at h
    split at h
    next hshort =>
      cases t with
      | zero => exact hshort.2
      | succ t => exact ih (Nat.lt_of_succ_lt_succ h)
    next => exact absurd h (Nat.not_lt_zero t)

/-! The payload of the bytes left does not depend on the fuel. -/

theorem payloadFrom_succ {fuel : Nat} {xs : List Byte} (h : xs.length ≤ fuel) :
    payloadFrom (fuel + 1) xs = payloadFrom fuel xs := by
  induction fuel generalizing xs with
  | zero => rw [List.eq_nil_of_length_eq_zero (Nat.le_zero.mp h), payloadFrom_nil, payloadFrom_nil]
  | succ fuel ih =>
    cases xs with
    | nil => rfl
    | cons x xs =>
      have hdrop {n : Nat} (hn : 0 < n) : ((x :: xs).drop n).length ≤ fuel := by
        rw [List.length_drop]
        omega
      by_cases hlong : 2 < runLen (x :: xs)
      · rw [payloadFrom_of_long _ hlong, payloadFrom_of_long _ hlong, ih (hdrop (by omega))]
      · rw [payloadFrom_of_short _ hlong, payloadFrom_of_short _ hlong, ih (hdrop (Nat.succ_pos _))]

/-- The payload of the bytes of a column from position i on. -/
def restFrom (x : Vector Byte Config.colBytes) (i : Nat) : List Byte := payloadFrom Config.colBytes (bytesFrom x i)

theorem restFrom_colBytes (x : Vector Byte Config.colBytes) : restFrom x Config.colBytes = [] := by
  rw [restFrom, List.eq_nil_of_length_eq_zero (length_bytesFrom x Config.colBytes), payloadFrom_nil]

/-- Past its first run a payload has fuel 15 left. -/
theorem payloadFrom_bytesFrom (x : Vector Byte Config.colBytes) {i : Nat} (h : 0 < i) :
    payloadFrom 15 (bytesFrom x i) = restFrom x i :=
  (payloadFrom_succ (by rw [length_bytesFrom, Config.colBytes]; omega)).symm

theorem repeatCount_eq {r : Nat} (h : r ≤ 257) : repeatCount r = BitVec.ofNat 8 (257 - r) := by
  refine BitVec.eq_of_toNat_eq ?_
  rw [repeatCount, BitVec.toNat_ofInt, BitVec.toNat_ofNat]
  omega

/-- Where a run of more than 2 begins, the payload goes on with a repeat-run (R163). -/
theorem restFrom_of_long {x : Vector Byte Config.colBytes} {i r : Nat} (hi : i < Config.colBytes) (hr : 2 < r)
    (hrun : RunLenIs x i r) : restFrom x i = [BitVec.ofNat 8 (257 - r), x[i]] ++ restFrom x (i + r) := by
  rw [runLenIs_iff hi, bytesFrom_eq_cons x hi] at hrun
  have hle := runLen_le_length (x[i] :: bytesFrom x (i + 1))
  rw [← hrun, ← bytesFrom_eq_cons x hi, length_bytesFrom] at hle
  have hcount : r ≤ 257 := hle.trans ((Nat.sub_le _ _).trans (by decide))
  rw [restFrom, bytesFrom_eq_cons x hi, payloadFrom_of_long 15 (hrun ▸ hr), ← hrun, ← bytesFrom_eq_cons x hi,
    drop_bytesFrom, payloadFrom_bytesFrom x (by omega), repeatCount_eq hcount]
  rfl

/-- The bytes that a literal-run at position i takes (R164). -/
def literalLen (x : Vector Byte Config.colBytes) (i : Nat) : Nat := literalRest 1 (bytesFrom x (i + 1)) + 1

/-- Elsewhere it goes on with a literal-run (R164). -/
theorem restFrom_of_short {x : Vector Byte Config.colBytes} {i : Nat} (hi : i < Config.colBytes)
    (hshort : ¬ LongRunAt x i) :
    restFrom x i = BitVec.ofNat 8 (literalLen x i - 1) :: (x.toList.drop i).take (literalLen x i) ++
      restFrom x (i + literalLen x i) := by
  rw [longRunAt_iff, bytesFrom_eq_cons x hi] at hshort
  rw [restFrom, bytesFrom_eq_cons x hi, payloadFrom_of_short 15 hshort, ← bytesFrom_eq_cons x hi, drop_bytesFrom,
    payloadFrom_bytesFrom x (by omega)]
  rfl

theorem add_literalLen_le (x : Vector Byte Config.colBytes) {i : Nat} (hi : i < Config.colBytes) :
    i + literalLen x i ≤ Config.colBytes := by
  have hle := literalRest_le_length 1 (bytesFrom x (i + 1))
  rw [length_bytesFrom] at hle
  unfold literalLen
  omega

theorem not_longRunAt_of_lt_literalLen {x : Vector Byte Config.colBytes} {i t : Nat} (hshort : ¬ LongRunAt x i)
    (ht : t < literalLen x i) : ¬ LongRunAt x (i + t) := by
  cases t with
  | zero => exact hshort
  | succ t =>
    have hle := runLen_drop_le_of_lt_literalRest (Nat.lt_of_succ_lt_succ ht)
    rw [drop_bytesFrom, Nat.add_assoc, Nat.add_comm 1 t] at hle
    rw [longRunAt_iff]
    exact Nat.not_lt.mpr hle

theorem literalLen_stops (x : Vector Byte Config.colBytes) {i : Nat} (hi : i < Config.colBytes) :
    i + literalLen x i = Config.colBytes ∨ LongRunAt x (i + literalLen x i) := by
  have hstop := literalRest_stops (taken := 1) (xs := bytesFrom x (i + 1)) (by rw [length_bytesFrom]; omega)
  rw [drop_bytesFrom, Nat.add_right_comm i 1] at hstop
  refine hstop.imp (fun hnil => ?_) longRunAt_iff.mpr
  have hlen := congrArg List.length hnil
  rw [length_bytesFrom] at hlen
  exact (add_literalLen_le x hi).antisymm (Nat.sub_eq_zero_iff_le.mp hlen)

/-- Settles O43: the list from a position is the payload of the bytes left there. -/
theorem threeRepeatTwoLiteral : Obligations.ThreeRepeatTwoLiteral := fun x =>
  ⟨restFrom x, rfl, restFrom_colBytes x, fun i hi => ⟨fun _ => restFrom_of_long hi, fun hshort =>
    ⟨literalLen x i, Nat.succ_pos _, add_literalLen_le x hi, restFrom_of_short hi hshort,
      fun _ => not_longRunAt_of_lt_literalLen hshort, literalLen_stops x hi⟩⟩⟩

end Sys2Proof.Machine
end

section
/-! PROOFS. A FormatError: what it writes, and that ERROR is left only by a restart (60_exceptions.md R186, R188). -/

namespace Sys2Proof.Machine

/-! Inside a token ACC counts, and the digit or the end of the token that raises the error stores nothing there
(41_extractor.md R125 to R128). -/

/-- If t is in ERROR, ACC is the one of s. -/
def ErrorKeepsAcc (s t : State) : Prop := t.pstate = .error → t.acc = s.acc

namespace ErrorKeepsAcc
variable {s t : State}

theorem raise (e : FormatCode) : ErrorKeepsAcc s (raiseFormatError e s) := fun _ => rfl

theorem goUnlessError {p : PState} (hp : p ≠ .error) (h : ErrorKeepsAcc s t) :
    ErrorKeepsAcc s (Machine.goUnlessError p t) := by
  unfold Machine.goUnlessError
  split
  · exact h
  · exact fun hpstate => absurd hpstate hp

theorem accDigit (b : Byte) (limit : Nat) (e : FormatCode) (hs : s.pstate ≠ .error) :
    ErrorKeepsAcc s (Machine.accDigit b limit e s) := by
  obtain h | ⟨n, -, h⟩ := accDigit_cases b limit e s <;> rw [h]
  · exact raise e
  · exact fun hpstate => absurd hpstate hs

theorem endWidth (hs : s.pstate ≠ .error) : ErrorKeepsAcc s (Machine.endWidth s) := by
  unfold Machine.endWidth
  split
  · exact raise .zeroDimension
  · exact fun hpstate => absurd hpstate hs

theorem endHeight (hs : s.pstate ≠ .error) : ErrorKeepsAcc s (Machine.endHeight s) := by
  unfold Machine.endHeight
  split
  · exact raise .zeroDimension
  · exact fun hpstate => absurd hpstate hs

theorem scanDigW (b : Byte) (hs : s.pstate ≠ .error) : ErrorKeepsAcc s (Machine.scanDigW b s) := by
  unfold Machine.scanDigW
  split
  · exact accDigit b _ _ hs
  split
  · exact goUnlessError (by decide) (endWidth hs)
  split
  · exact goUnlessError (by decide) (endWidth hs)
  · exact raise .badHeaderChar

theorem scanDigH (b : Byte) (hs : s.pstate ≠ .error) : ErrorKeepsAcc s (Machine.scanDigH b s) := by
  unfold Machine.scanDigH
  split
  · exact accDigit b _ _ hs
  split
  · exact goUnlessError (by decide) (endHeight hs)
  split
  · exact goUnlessError (by decide) (endHeight hs)
  · exact raise .badHeaderChar

/-- A byte fed inside a token. -/
theorem scan (b : Byte) (hp : s.pstate = .digW ∨ s.pstate = .digH) : ErrorKeepsAcc s (Machine.scan b s) := by
  rcases hp with hp | hp <;> simp only [Machine.scan, hp]
  · exact scanDigW b (by simp [hp])
  · exact scanDigH b (by simp [hp])

/-- The end of the stream inside a token. -/
theorem scanEnd (hp : s.pstate = .digW ∨ s.pstate = .digH) : ErrorKeepsAcc s (Machine.scanEnd s) := by
  rcases hp with hp | hp <;> simp only [Machine.scanEnd, hp]
  · exact raise .eosInHeader
  · exact goUnlessError (by decide) (endHeight (by simp [hp]))

end ErrorKeepsAcc

/-- No pixel data is a FormatError (41_extractor.md R130 to R133). -/
theorem scanPix_pstate_ne_error (b : Byte) {s : State} (hs : s.pstate ≠ .error) : (scanPix b s).pstate ≠ .error :=
  scanPix_keeps (P := fun x => x.pstate ≠ .error) (fun _ _ _ _ h => by rwa [setPixel_pstate]) (fun _ _ _ h => h)
    (fun _ => by simp) b hs

theorem Moves.ne_error {p q : PState} (h : Moves p q) : q ≠ .error := by cases h <;> decide

/-- The scanner enters ERROR with a code in PERR, and writes nothing else but ACC, which it may have cleared. -/
theorem Advances.eq_of_enters_error {s t : State} (h : Advances s t) (hs : s.pstate ≠ .error)
    (ht : t.pstate = .error) : t.perr ≠ .none ∧ (t.acc = s.acc ∨ t.acc = 0#21) ∧
      t = { s with pstate := .error, perr := t.perr, acc := t.acc } := by
  cases h with
  | error hp he ha => exact ⟨he, ha, rfl⟩
  | stay => exact absurd ht hs
  | move h => exact absurd ht h.ne_error
  | pixels b => exact absurd ht (scanPix_pstate_ne_error b hs)
  | type | widthDigit | heightDigit => cases ht
  | endWidth _ _ hq | endHeight _ _ hq => subst ht; simp at hq

/-- Outside a token ACC is 0 already; inside one the error keeps it. -/
theorem Advances.only_pstate_perr_of_error {s t : State} (h : Advances s t) (hok : ScannerOk s)
    (hs : s.pstate ≠ .error) (ht : t.pstate = .error)
    (htoken : s.pstate = .digW ∨ s.pstate = .digH → ErrorKeepsAcc s t) :
    t.perr ≠ .none ∧ t = { s with pstate := .error, perr := t.perr } := by
  obtain ⟨hperr, hacc, heq⟩ := h.eq_of_enters_error hs ht
  have hkeep : t.acc = s.acc := by
    by_cases hp : s.pstate = .digW ∨ s.pstate = .digH
    · exact htoken hp ht
    · rw [not_or] at hp
      rw [hok.accZero hp.1 hp.2 hs] at hacc ⊢
      exact or_self_iff.mp hacc
  rw [hkeep] at heq
  exact ⟨hperr, heq⟩

/-- Settles O33: only the scanner raises a FormatError; a CmdError leaves PSTATE. -/
theorem formatErrorKeepsTheRest : Obligations.FormatErrorKeepsTheRest := by
  intro s t i hok hi hexec hs ht
  cases executes_of_exec hexec with
  | operandRange | sequence => exact absurd (raiseCmdError_pstate _ s ▸ ht) hs
  | feed b => exact (Advances.scan b s).only_pstate_perr_of_error hok hs ht (.scan b)
  | feedEnd => exact (Advances.scanEnd s).only_pstate_perr_of_error hok hs ht .scanEnd
  | nop | sreset | jobStart | bufrd | loadcol | setcol | encode | outrd | colrd => simp [Instr.UsesStream] at hi

/-- The scanner does nothing in ERROR (R186). -/
theorem Advances.eq_of_error {s t : State} (h : Advances s t) (hs : s.pstate = .error) : t = s := by
  cases h with
  | stay => rfl
  | move h => rw [hs] at h; cases h
  | error hp => rw [hs] at hp; cases hp
  | type hp | endWidth hp | endHeight hp | pixels _ hp => rw [hs] at hp; cases hp
  | widthDigit hp | heightDigit hp => simp [hs] at hp

/-- Settles O46: a step that begins nothing again keeps the scanner's part or advances the scanner, which ERROR stops. -/
theorem errorLeftOnlyByRestart : Obligations.ErrorLeftOnlyByRestart := by
  intro s t hstep hs
  cases scannerStep_of_step hstep with
  | restart hnext => exact .inl hnext
  | keep h => exact .inr (sameScanner_of_scannerView h)
  | @advance u hu h =>
    have hpstate : u.pstate = .error := (congrArg Prod.fst hu).trans hs
    rw [h.eq_of_error hpstate]
    exact .inr (sameScanner_of_scannerView hu)

end Sys2Proof.Machine
end

section
/-! PROOFS. CERR keeps its first code until a restart (60_exceptions.md R185), and a waiting block holds its state
(R197). -/

namespace Sys2Proof.Machine

/-- A CMD write of a word that decodes to SRESET or JOB_START is one of the two words of `RestartsNext`. -/
theorem restartsNext_of_decode {s : State} {w : Word} {rest : List HostEvent} {i : Instr}
    (hnext : NextIsCommand s w rest) (hdecode : decode w = .cmd i) (hi : i = .sreset ∨ i = .jobStart) :
    RestartsNext s := by
  refine ⟨rest, .inr ?_⟩
  rcases hi with rfl | rfl
  · exact .inl (by rw [hnext, eq_matchOf_of_decode hdecode rfl]; rfl)
  · exact .inr (by rw [hnext, eq_matchOf_of_decode hdecode rfl]; rfl)

theorem raiseCmdError_cerr_of_ne {s : State} (e : CmdCode) (h : s.cerr ≠ .none) :
    (raiseCmdError e s).cerr = s.cerr := by
  rw [raiseCmdError_cerr, if_neg h]

/-- A command keeps a code in CERR, unless it is one of the two that clear it. -/
theorem Executes.cerr_kept_or_cleared {s t : State} {i : Instr} (h : Executes s i t) (hs : s.cerr ≠ .none) :
    t.cerr = s.cerr ∨ (i = .sreset ∨ i = .jobStart) ∧ t.cerr = .none := by
  cases h with
  | operandRange | sequence => exact .inl (raiseCmdError_cerr_of_ne _ hs)
  | sreset => exact .inr ⟨.inl rfl, rfl⟩
  | jobStart => exact .inr ⟨.inr rfl, rfl⟩
  | feed b => exact .inl (congrArg Prod.fst (scannerBlind_outside.scan b s))
  | feedEnd => exact .inl (congrArg Prod.fst (scannerBlind_outside.scanEnd s))
  | nop | bufrd | loadcol | setcol | encode | outrd | colrd => exact .inl rfl

/-- Settles O44: in each case of a step; a word that is no command finds the earlier code in CERR. -/
theorem firstCmdErrorIsKept : Obligations.FirstCmdErrorIsKept := by
  intro s t hstep hs
  obtain ⟨-, rfl⟩ | ⟨rest, hpend, rfl⟩ | ⟨off, rest, -, rfl⟩ | ⟨off, v, rest, -, -, rfl⟩ | ⟨w, rest, hpend, hcmd⟩ :=
    step_cases hstep
  · exact .inl rfl
  · exact .inr ⟨⟨rest, .inl hpend⟩, rfl⟩
  · exact .inl rfl
  · exact .inl rfl
  · obtain ⟨-, rfl⟩ | ⟨m, -, rfl⟩ | ⟨i, hdecode, hexec⟩ := command_cases hcmd
    · exact .inl (raiseCmdError_cerr_of_ne _ hs)
    · exact .inl (raiseCmdError_cerr_of_ne _ hs)
    · exact ((executes_of_exec hexec).cerr_kept_or_cleared hs).imp_right
        fun ⟨hi, hcerr⟩ => ⟨restartsNext_of_decode hpend hdecode hi, hcerr⟩

/-- Settles O11: the port has no event to perform. -/
theorem waitingHoldsState : Obligations.WaitingHoldsState := by
  intro s hpend
  unfold step portStep
  rw [hpend]

end Sys2Proof.Machine
end

section
/-! PROOFS. Every item of R200, at power-up and after either reset (70_reset_and_hazards.md R200, R201). -/

namespace Sys2Proof.Machine

/-- A reset leaves the power-up state as it is: that state is the reset of itself. -/
theorem applyReset_resetWith (maxColumns bcxBase : Nat) :
    applyReset (State.resetWith maxColumns bcxBase) = State.resetWith maxColumns bcxBase := rfl

/-- Settles O19: each of the three states of R200 is the reset of some state. -/
theorem resetStateValues : Obligations.ResetStateValues := by
  refine ⟨fun maxColumns bcxBase => ?_, fun s t h => ?_⟩
  · rw [← applyReset_resetWith]
    exact blockReset_applyReset _
  · have ht : applyReset s = t := h.elim Host.Outcome.next.inj Host.Outcome.next.inj
    exact ht ▸ blockReset_applyReset s

end Sys2Proof.Machine
end
